-- ==== Sys2Proof/Word.lean ====
section
/-! DEFINITION. The two machine word types of RZPE: every engine register is XLEN = 64 bits wide (rule R6, R12),
every field element and every memory location is one byte (rules R7, R40). -/

namespace Sys2Proof

/-- A value of an engine register or a command word: XLEN = 64 bits (rules R6, R12, R60). -/
abbrev Word := BitVec 64

/-- A field element of GF(2^8) and a location of data memory (rules R7, R40, R85). -/
abbrev Byte := BitVec 8

end Sys2Proof
end

