-- ==== Sys2Proof/Syntax.lean ====
section
/-! DEFINITION. The command set RZPE-CMD v1: one constructor per row of spec/opcode_table.json (rules R60, R61). -/

namespace Sys2Proof

/-- The 14 commands of rule R61. `bk` is the field BKND (rule R63), `valid` the field VALID with bit 0 = P, bit 1 = Q,
bit 2 = R, and `tcnt` the field TCNT (rules R60, R64). Fields that a command must leave 0 are no operands of it. -/
inductive Instr where
  /-- GEN, `generateParity`: dispatch on the parity count (rule R103). -/
  | gen (bk : Nat)
  /-- GENP (rule R104). -/
  | genp (bk : Nat)
  /-- GENPQ (rule R105). -/
  | genpq (bk : Nat)
  /-- GENPQR (rule R106). -/
  | genpqr (bk : Nat)
  /-- REC, `reconstruct`: lookup on (parity count, VALID, TCNT) (rule R123). -/
  | reconstruct (bk : Nat) (valid : Nat) (tcnt : Nat)
  /-- RECP (rule R126). -/
  | recp (bk : Nat)
  /-- RECQ (rule R127). -/
  | recq (bk : Nat)
  /-- RECR (rule R128). -/
  | recr (bk : Nat)
  /-- RECPQ (rule R129). -/
  | recpq (bk : Nat)
  /-- RECPR (rule R130). -/
  | recpr (bk : Nat)
  /-- RECQR (rule R131). -/
  | recqr (bk : Nat)
  /-- RECPQR (rule R132). -/
  | recpqr (bk : Nat)
  /-- GFEXP2, `exp2(a, e)` (rule R80). -/
  | gfexp2
  /-- GFMUL, `a (*) b` (rule R84). -/
  | gfmul
deriving DecidableEq, Repr

end Sys2Proof
end

