-- ==== Sys2Proof/WellFormed.lean ====
section
/-! DEFINITION. Which instruction terms stand for a command word: each field fits the bits rule R60 gives it. -/

namespace Sys2Proof

/-- BKND has bits 7:4 of the command word (rule R60): a backend number 0..15. -/
def backendFits (bk : Nat) : Bool := decide (bk < 16)

/-- VALID has bits 10:8 of the command word (rule R60). -/
def validFits (valid : Nat) : Bool := decide (valid < 8)

/-- TCNT has bits 13:12 of the command word (rule R60). TCNT = 0 is a legal encoding (rule R65). -/
def countFits (tcnt : Nat) : Bool := decide (tcnt < 4)

/-- Every field of the instruction fits its bits. -/
def Instr.wellFormed : Instr → Bool
  | .gen bk => backendFits bk
  | .genp bk => backendFits bk
  | .genpq bk => backendFits bk
  | .genpqr bk => backendFits bk
  | .reconstruct bk valid tcnt => backendFits bk && validFits valid && countFits tcnt
  | .recp bk => backendFits bk
  | .recq bk => backendFits bk
  | .recr bk => backendFits bk
  | .recpq bk => backendFits bk
  | .recpr bk => backendFits bk
  | .recqr bk => backendFits bk
  | .recpqr bk => backendFits bk
  | .gfexp2 => true
  | .gfmul => true

end Sys2Proof
end

