-- ==== Sys2Proof/Decode.lean ====
section
/-! DEFINITION. Decoding of a command word, total and rejecting by name (rules R60, R61, R65), and the encoder written
from the same field table (rules R60, R68). -/

namespace Sys2Proof

/-- Why a 64-bit value is no legal command (rule R65). Every one of them is ILLEGAL_CMD for the engine. -/
inductive DecodeError where
  /-- Bit 11 or one of bits 63:14 is 1. -/
  | reservedBits
  /-- OP is not 5 and VALID or TCNT is nonzero. -/
  | strayOperand
  /-- OP is 13 or 14 and BKND is nonzero. -/
  | strayBackend
  /-- OP is 0 or 15. -/
  | reservedOpcode
deriving DecidableEq, Repr

/-- The unsigned number in the `len` bits of `w` from bit `lo` on: `w[lo+len-1 : lo]` of rule R7. -/
def bitField (w : Word) (lo len : Nat) : Nat := w.toNat / 2 ^ lo % 2 ^ len

/-- The commands without VALID and TCNT, by opcode (rule R61). -/
def decodeOpcode (op bk : Nat) : Except DecodeError Instr :=
  match op with
  | 1 => .ok (.gen bk)
  | 2 => .ok (.genp bk)
  | 3 => .ok (.genpq bk)
  | 4 => .ok (.genpqr bk)
  | 6 => .ok (.recp bk)
  | 7 => .ok (.recq bk)
  | 8 => .ok (.recr bk)
  | 9 => .ok (.recpq bk)
  | 10 => .ok (.recpr bk)
  | 11 => .ok (.recqr bk)
  | 12 => .ok (.recpqr bk)
  | 13 => if bk = 0 then .ok .gfexp2 else .error .strayBackend
  | 14 => if bk = 0 then .ok .gfmul else .error .strayBackend
  | _ => .error .reservedOpcode

/-- The command that a value written to CMD encodes, or why it encodes none (rules R60, R61, R65). -/
def decode (w : Word) : Except DecodeError Instr :=
  let op := bitField w 0 4
  let bk := bitField w 4 4
  let valid := bitField w 8 3
  let tcnt := bitField w 12 2
  if bitField w 11 1 ≠ 0 ∨ bitField w 14 50 ≠ 0 then .error .reservedBits
  else if op = 5 then .ok (.reconstruct bk valid tcnt)
  else if valid ≠ 0 ∨ tcnt ≠ 0 then .error .strayOperand
  else decodeOpcode op bk

/-- The command word with the given fields: `OP | bk << 4 | valid << 8 | cnt << 12` (rule R68). -/
def commandWord (op bk valid tcnt : Nat) : Word :=
  BitVec.ofNat 64 (op + bk * 2 ^ 4 + valid * 2 ^ 8 + tcnt * 2 ^ 12)

/-- The command word of an instruction (rules R60, R61). -/
def encode : Instr → Word
  | .gen bk => commandWord 1 bk 0 0
  | .genp bk => commandWord 2 bk 0 0
  | .genpq bk => commandWord 3 bk 0 0
  | .genpqr bk => commandWord 4 bk 0 0
  | .reconstruct bk valid tcnt => commandWord 5 bk valid tcnt
  | .recp bk => commandWord 6 bk 0 0
  | .recq bk => commandWord 7 bk 0 0
  | .recr bk => commandWord 8 bk 0 0
  | .recpq bk => commandWord 9 bk 0 0
  | .recpr bk => commandWord 10 bk 0 0
  | .recqr bk => commandWord 11 bk 0 0
  | .recpqr bk => commandWord 12 bk 0 0
  | .gfexp2 => commandWord 13 0 0 0
  | .gfmul => commandWord 14 0 0 0

/-- A command is one 64-bit value with no byte order of its own (rules R42, R50, R60): the low `nbits` bits of `w`, the
bits above 0, as the value the host writes to CMD (log entry 20). -/
def tableWord (nbits w : Nat) : Word := BitVec.ofNat 64 (w % 2 ^ nbits)

/-- The instruction the decoder reads from a row of spec/opcode_table.json whose bits are `w`. -/
def decodeTableWord (nbits w : Nat) : Option Instr :=
  match decode (tableWord nbits w) with
  | .ok i => some i
  | .error _ => none

end Sys2Proof
end

