-- ==== Sys2Proof/Config.lean ====
section
/-! DEFINITION. The open parameters of the platform (rule R6, 93_implementation_defined.md U14) and the free values of the
model: constants WITHOUT a body, so that nothing in Lean can prove one of them equal to a chosen value. -/

namespace Sys2Proof

/-- A range of byte addresses that the platform does not back with memory: `size` addresses from `base` on. -/
structure Hole where
  base : Nat
  size : Nat
deriving DecidableEq, Repr, Inhabited

/-- The OPEN parameters of rule R6 that an engine shows in CAP (rule R15) or meets on its bus (rules R41, R43).
`wideSup` is BKND_SUP[15:1]: bit `b - 1` says whether wide-vector backend `b` exists; bit 0 of BKND_SUP, the scalar
backend, is always 1 and so is not stored. `logVB` and `nvreg` count only when some wide-vector backend exists.
An address is `Mapped` when it lies below 2^64 and in no hole. -/
structure Platform where
  wideSup : BitVec 15
  logVB   : BitVec 8
  nvreg   : BitVec 8
  holes   : List Hole
deriving DecidableEq, Repr, Inhabited

/-- The platform of the engine after power-on: OPEN, one constant for the life of the hardware (rules R6, R15).
It has no body: no proof can see which backends it has or which addresses it backs. (Log entry 2.) -/
opaque Config.platform : Platform

/-- `LOG2[0]`, the sentinel without a value (rule R31, U1). (Log entry 5.) -/
opaque Config.log2Sentinel : Byte

/-- FREE VALUE: the byte at address `addr` whose value the spec leaves unspecified (U7, U9, U10), fresh for each value
of the model's counter. (Log entry 6.) -/
opaque Config.freeByte : (counter addr : Nat) → Byte

/-- FREE VALUE: lane `j` of vector register `r` while its content is unspecified (rule R37, U6). (Log entry 8.) -/
opaque Config.freeLane : (stamp r j : Nat) → Byte

/-- FREE VALUE: field `f` of column-table entry `c` after a hardware reset that happens during a run (rule R39, U5).
(Log entry 4.) -/
opaque Config.freeColumn : (counter c f : Nat) → Word

/-- FREE VALUE: which of several unmapped addresses a BUS_ERROR reports (U15). (Log entry 7.) -/
opaque Config.freePick : (counter : Nat) → Nat

/-- FREE VALUE: whether an implementation skips the reads whose value cannot matter (last paragraph of rule R47).
(Log entry 7.) -/
opaque Config.freeSkip : (counter : Nat) → Bool

end Sys2Proof
end

