-- ==== Sys2Proof/Machine/VectorFile.lean ====
section
/-! DEFINITION. The vector register file of an engine as plain data (rules R15, R37, R152). -/

namespace Sys2Proof.Machine

/-- Whether some wide-vector backend is implemented (rule R15). -/
def hasWide (p : Platform) : Bool := decide (p.wideSup ≠ 0)

/-- VBYTES, the number of bytes in one lane batch: a power of two (rules R6, R15). -/
def vbytes (p : Platform) : Nat := 2 ^ p.logVB.toNat

/-- The number of vector registers: NVREG, and none when no wide-vector backend is implemented (rules R15, R37). -/
def numVregs (p : Platform) : Nat := if hasWide p then p.nvreg.toNat else 0

/-- The file: its registers in the order of their numbers, each with the bytes of its lanes, lane 0 first (rule R37). -/
abbrev VectorFile := List (List Byte)

/-- A file of unspecified content: NVREG registers of VBYTES free values (rule R37, U6; log entry 8). -/
def freeFile (p : Platform) (stamp : Nat) : VectorFile :=
  (List.range (numVregs p)).map fun r => (List.range (vbytes p)).map (Config.freeLane stamp r)

end Sys2Proof.Machine
end

