-- ==== Sys2Proof/Machine/State.lean ====
section
/-! DEFINITION. The state of one RZPE engine, of the memory it works on and of the bus the host drives it through, as
plain data, and its value after reset (rules R10 to R39, R210). -/

namespace Sys2Proof.Machine

/-- The sequencing state of an engine (rule R11). RZPE has no program counter. -/
inductive Seq where
  | idle
  | busy
  | fault
deriving DecidableEq, Repr

/-- The operation kinds with a code in STATUS.KIND (rules R61, R120). GEN and REC select one of them. -/
inductive Kind where
  | genP
  | genPQ
  | genPQR
  | recP
  | recQ
  | recR
  | recPQ
  | recPR
  | recQR
  | recPQR
  | gfExp2
  | gfMul
deriving DecidableEq, Repr

/-- The twelve faults of an engine, in the order of their codes 1 to 12 (rule R181). They are states of the engine, not
ends of the model's run. -/
inductive FaultCode where
  | illegalCmd
  | badBackend
  | badParityCount
  | mapInvalid
  | addrRange
  | kindUnsupported
  | badTarget
  | noRoutine
  | overlap
  | unaligned
  | badOperand
  | busError
deriving DecidableEq, Repr

/-- The five fields of a column-table entry (rule R20), each a 64-bit register. -/
structure Column where
  dev   : Word
  off   : Word
  len   : Word
  ptr   : Word
  flags : Word
deriving DecidableEq, Repr

/-- The column with every field 0. -/
def Column.zero : Column := ⟨0, 0, 0, 0, 0⟩

/-- The column table has `NCOLS_MAX` = 258 entries (rule R19). -/
abbrev ColumnTable := Vector Column 258

/-- A byte range `[ptr, ptr + len)` of data memory (rule R49): what the engine uses of a column. -/
structure Segment where
  ptr : Nat
  len : Nat
deriving DecidableEq, Repr

/-- The map that a descriptor holds (rule R21): the parity count, the column-shift and, for every column
`c < ncols` in order, its PTR and LEN. -/
structure RaidzMap where
  np       : Nat
  colshift : Nat
  cols     : List Segment
deriving DecidableEq, Repr

/-- The registers that say which columns a command works on: the map registers and TGT0 to TGT2 (rules R21, R34, R64). -/
structure Descriptor where
  ncols    : Word
  nparity  : Word
  colshift : Word
  cols     : ColumnTable
  tgt0     : Word
  tgt1     : Word
  tgt2     : Word
deriving DecidableEq, Repr

/-- The latched command of a BUSY engine (rules R38(a), R62): the command, its kind, its backend, and the map registers,
TGT0 to TGT2, GFA and GFB as they stood at issue, whatever the command. `raced` is the model's own: another agent has
meanwhile stored to a byte the command reads or writes (rule R54, log entry 12). -/
structure Latch where
  instr : Instr
  kind  : Kind
  bk    : Nat
  desc  : Descriptor
  gfa   : Word
  gfb   : Word
  raced : Bool
deriving DecidableEq, Repr

/-- Data memory (rule R40): (address, byte) pairs, addresses strictly rising, no entry equal to what an unlisted address
reads as. -/
abbrev Memory := List Host.Cell

/-- What the host, the only other agent (rule R10), can do next. -/
inductive HostAction where
  /-- The host writes `v` to register number `r` (rules R12, R13). -/
  | write (r : Nat) (v : Word)
  /-- The host reads register number `r`. -/
  | read (r : Nat)
  /-- An agent outside the engine stores a byte in data memory: one byte of a MEM line (rule R68). -/
  | store (a : Word) (b : Byte)
  /-- An agent outside the engine loads a byte of data memory. -/
  | load (a : Word)
  /-- The host polls STATUS until BUSY = 0: the line WAIT (rules R68, R173). While BUSY it leaves the turn to the engine. -/
  | wait
  /-- Hardware reset (rule R210). -/
  | hardReset
deriving DecidableEq, Repr

/-- Everything the spec gives the machine, and the host's side of the bus. -/
structure State where
  /-- The OPEN parameters; what CAP shows (rules R6, R15). No step changes it. -/
  platform : Platform
  /-- SEQ (rule R11); STATUS.BUSY and STATUS.FAULT show it (rule R16). -/
  seq      : Seq
  /-- STATUS.DONE (rule R16). -/
  done     : Bool
  /-- STATUS.VCTX (rules R16, R151). -/
  vctx     : Bool
  /-- STATUS.KIND: the kind of the last accepted command (rule R16). -/
  kind     : Option Kind
  /-- STATUS.USED: bit 0 = P, bit 1 = Q, bit 2 = R (rules R16, R122). -/
  used     : BitVec 3
  /-- STATUS.FCODE (rules R16, R181). -/
  fcode    : Option FaultCode
  /-- FINFO, register 13 (rule R36). -/
  finfo    : Word
  /-- NCOLS, register 4 (rule R21). -/
  ncols    : Word
  /-- NPARITY, register 5 (rule R22). -/
  nparity  : Word
  /-- COLSHIFT, register 6 (rule R28). -/
  colshift : Word
  /-- TGT0, register 7 (rule R34). -/
  tgt0     : Word
  /-- TGT1, register 8 (rule R34). -/
  tgt1     : Word
  /-- TGT2, register 9 (rule R34). -/
  tgt2     : Word
  /-- GFA, register 10 (rule R35). -/
  gfa      : Word
  /-- GFB, register 11 (rule R35). -/
  gfb      : Word
  /-- GFR, register 12 (rule R35). -/
  gfr      : Word
  /-- COL[0] to COL[257] (rules R19, R20). -/
  cols     : ColumnTable
  /-- The latched command of a BUSY engine (rule R38; parts (b) and (c) of that rule are not held, log entry 11). -/
  latched  : Option Latch
  /-- The vector register file: NVREG registers of VBYTES bytes, none without a wide-vector backend (rule R37). -/
  vfile    : VectorFile
  /-- Data memory (rule R40), shared with the host and other engines. -/
  mem      : Memory
  /-- Host writes (register number, value) that are held because the engine is BUSY, oldest first (rule R13, log entry 13). -/
  held     : List (Nat × Word)
  /-- What the host does next, in order; the model's input queue (log entries 9, 18). -/
  inputs   : List HostAction
  /-- What the host's last read, load or WAIT returned to it; the model's own (log entry 18). -/
  rdata    : Word
  /-- The model's own counter, from which every free value is drawn fresh (log entry 18). -/
  freeCtr  : Nat
deriving DecidableEq, Repr

/-- Why a run of the model stops. No engine fault does so: those are states (rule R190). -/
inductive Fault where
  /-- Raised by a load or store of the HOST (never by the engine) at an address that the platform does not back with
  memory. There is no such byte, and what the platform does then is not the engine's (rules R41, R43; log entry 16). Safe. -/
  | hostUnmapped (a : Word)
deriving DecidableEq, Repr

/-- Why a step has no meaning in the model. -/
inductive Refusal where
  /-- Raised by an arm of `exec` whose instruction has no meaning yet; the string is the opcode table's mnemonic. No arm
  does so now. Safe. -/
  | notModelled (mnemonic : String)
deriving DecidableEq, Repr

/-- What every step and every meaning answers. -/
abbrev Outcome := Host.Outcome State Fault Refusal

/-- The state after hardware reset at power-on, for any platform, any content of the column table (rules R39, R210, U5) and
any data memory. -/
def State.resetWith (p : Platform) (table : ColumnTable) (mem : Memory) : State where
  platform := p
  seq := .idle
  done := false
  vctx := false
  kind := none
  used := 0
  fcode := none
  finfo := 0
  ncols := 0
  nparity := 0
  colshift := 0
  tgt0 := 0
  tgt1 := 0
  tgt2 := 0
  gfa := 0
  gfb := 0
  gfr := 0
  cols := table
  latched := none
  vfile := freeFile p 0
  mem := mem
  held := []
  inputs := []
  rdata := 0
  freeCtr := 1

/-- The machine right after reset: the values of rules R39 and R210; the platform is the OPEN constant (log entry 2), the
column table, which the spec leaves unspecified, is 0 (log entry 3), the vector register file holds free values (log entry 8),
and no byte of memory is listed (log entry 1). -/
def State.reset : State :=
  State.resetWith Config.platform (Vector.replicate 258 Column.zero) []

end Sys2Proof.Machine
end

