-- ==== Sys2Proof/Machine/Field.lean ====
section
/-! DEFINITION. GF(2^8): the two constant tables and the pure functions that every command family calls
(rules R29 to R33, R81 to R92). -/

namespace Sys2Proof.Machine

/-! ### The tables (rules R29 to R31), in the lines of 16 entries of the spec. -/

/-- `POW2` (rule R30), indices 0 to 127. -/
def pow2TablePart0 : List Nat := [
  0x01, 0x02, 0x04, 0x08, 0x10, 0x20, 0x40, 0x80, 0x1D, 0x3A, 0x74, 0xE8, 0xCD, 0x87, 0x13, 0x26,
  0x4C, 0x98, 0x2D, 0x5A, 0xB4, 0x75, 0xEA, 0xC9, 0x8F, 0x03, 0x06, 0x0C, 0x18, 0x30, 0x60, 0xC0,
  0x9D, 0x27, 0x4E, 0x9C, 0x25, 0x4A, 0x94, 0x35, 0x6A, 0xD4, 0xB5, 0x77, 0xEE, 0xC1, 0x9F, 0x23,
  0x46, 0x8C, 0x05, 0x0A, 0x14, 0x28, 0x50, 0xA0, 0x5D, 0xBA, 0x69, 0xD2, 0xB9, 0x6F, 0xDE, 0xA1,
  0x5F, 0xBE, 0x61, 0xC2, 0x99, 0x2F, 0x5E, 0xBC, 0x65, 0xCA, 0x89, 0x0F, 0x1E, 0x3C, 0x78, 0xF0,
  0xFD, 0xE7, 0xD3, 0xBB, 0x6B, 0xD6, 0xB1, 0x7F, 0xFE, 0xE1, 0xDF, 0xA3, 0x5B, 0xB6, 0x71, 0xE2,
  0xD9, 0xAF, 0x43, 0x86, 0x11, 0x22, 0x44, 0x88, 0x0D, 0x1A, 0x34, 0x68, 0xD0, 0xBD, 0x67, 0xCE,
  0x81, 0x1F, 0x3E, 0x7C, 0xF8, 0xED, 0xC7, 0x93, 0x3B, 0x76, 0xEC, 0xC5, 0x97, 0x33, 0x66, 0xCC]

/-- `POW2` (rule R30), indices 128 to 255. -/
def pow2TablePart1 : List Nat := [
  0x85, 0x17, 0x2E, 0x5C, 0xB8, 0x6D, 0xDA, 0xA9, 0x4F, 0x9E, 0x21, 0x42, 0x84, 0x15, 0x2A, 0x54,
  0xA8, 0x4D, 0x9A, 0x29, 0x52, 0xA4, 0x55, 0xAA, 0x49, 0x92, 0x39, 0x72, 0xE4, 0xD5, 0xB7, 0x73,
  0xE6, 0xD1, 0xBF, 0x63, 0xC6, 0x91, 0x3F, 0x7E, 0xFC, 0xE5, 0xD7, 0xB3, 0x7B, 0xF6, 0xF1, 0xFF,
  0xE3, 0xDB, 0xAB, 0x4B, 0x96, 0x31, 0x62, 0xC4, 0x95, 0x37, 0x6E, 0xDC, 0xA5, 0x57, 0xAE, 0x41,
  0x82, 0x19, 0x32, 0x64, 0xC8, 0x8D, 0x07, 0x0E, 0x1C, 0x38, 0x70, 0xE0, 0xDD, 0xA7, 0x53, 0xA6,
  0x51, 0xA2, 0x59, 0xB2, 0x79, 0xF2, 0xF9, 0xEF, 0xC3, 0x9B, 0x2B, 0x56, 0xAC, 0x45, 0x8A, 0x09,
  0x12, 0x24, 0x48, 0x90, 0x3D, 0x7A, 0xF4, 0xF5, 0xF7, 0xF3, 0xFB, 0xEB, 0xCB, 0x8B, 0x0B, 0x16,
  0x2C, 0x58, 0xB0, 0x7D, 0xFA, 0xE9, 0xCF, 0x83, 0x1B, 0x36, 0x6C, 0xD8, 0xAD, 0x47, 0x8E, 0x01]

/-- `POW2` (rule R30), indices 256 to 383. -/
def pow2TablePart2 : List Nat := [
  0x02, 0x04, 0x08, 0x10, 0x20, 0x40, 0x80, 0x1D, 0x3A, 0x74, 0xE8, 0xCD, 0x87, 0x13, 0x26, 0x4C,
  0x98, 0x2D, 0x5A, 0xB4, 0x75, 0xEA, 0xC9, 0x8F, 0x03, 0x06, 0x0C, 0x18, 0x30, 0x60, 0xC0, 0x9D,
  0x27, 0x4E, 0x9C, 0x25, 0x4A, 0x94, 0x35, 0x6A, 0xD4, 0xB5, 0x77, 0xEE, 0xC1, 0x9F, 0x23, 0x46,
  0x8C, 0x05, 0x0A, 0x14, 0x28, 0x50, 0xA0, 0x5D, 0xBA, 0x69, 0xD2, 0xB9, 0x6F, 0xDE, 0xA1, 0x5F,
  0xBE, 0x61, 0xC2, 0x99, 0x2F, 0x5E, 0xBC, 0x65, 0xCA, 0x89, 0x0F, 0x1E, 0x3C, 0x78, 0xF0, 0xFD,
  0xE7, 0xD3, 0xBB, 0x6B, 0xD6, 0xB1, 0x7F, 0xFE, 0xE1, 0xDF, 0xA3, 0x5B, 0xB6, 0x71, 0xE2, 0xD9,
  0xAF, 0x43, 0x86, 0x11, 0x22, 0x44, 0x88, 0x0D, 0x1A, 0x34, 0x68, 0xD0, 0xBD, 0x67, 0xCE, 0x81,
  0x1F, 0x3E, 0x7C, 0xF8, 0xED, 0xC7, 0x93, 0x3B, 0x76, 0xEC, 0xC5, 0x97, 0x33, 0x66, 0xCC, 0x85]

/-- `POW2` (rule R30), indices 384 to 510. -/
def pow2TablePart3 : List Nat := [
  0x17, 0x2E, 0x5C, 0xB8, 0x6D, 0xDA, 0xA9, 0x4F, 0x9E, 0x21, 0x42, 0x84, 0x15, 0x2A, 0x54, 0xA8,
  0x4D, 0x9A, 0x29, 0x52, 0xA4, 0x55, 0xAA, 0x49, 0x92, 0x39, 0x72, 0xE4, 0xD5, 0xB7, 0x73, 0xE6,
  0xD1, 0xBF, 0x63, 0xC6, 0x91, 0x3F, 0x7E, 0xFC, 0xE5, 0xD7, 0xB3, 0x7B, 0xF6, 0xF1, 0xFF, 0xE3,
  0xDB, 0xAB, 0x4B, 0x96, 0x31, 0x62, 0xC4, 0x95, 0x37, 0x6E, 0xDC, 0xA5, 0x57, 0xAE, 0x41, 0x82,
  0x19, 0x32, 0x64, 0xC8, 0x8D, 0x07, 0x0E, 0x1C, 0x38, 0x70, 0xE0, 0xDD, 0xA7, 0x53, 0xA6, 0x51,
  0xA2, 0x59, 0xB2, 0x79, 0xF2, 0xF9, 0xEF, 0xC3, 0x9B, 0x2B, 0x56, 0xAC, 0x45, 0x8A, 0x09, 0x12,
  0x24, 0x48, 0x90, 0x3D, 0x7A, 0xF4, 0xF5, 0xF7, 0xF3, 0xFB, 0xEB, 0xCB, 0x8B, 0x0B, 0x16, 0x2C,
  0x58, 0xB0, 0x7D, 0xFA, 0xE9, 0xCF, 0x83, 0x1B, 0x36, 0x6C, 0xD8, 0xAD, 0x47, 0x8E, 0x01]

/-- The 511 entries of `POW2` (rules R29, R30). -/
def pow2Table : List Nat := pow2TablePart0 ++ pow2TablePart1 ++ pow2TablePart2 ++ pow2TablePart3

/-- `LOG2` (rule R31), indices 1 to 128. -/
def log2TablePart0 : List Nat := [
  0x00, 0x01, 0x19, 0x02, 0x32, 0x1A, 0xC6, 0x03, 0xDF, 0x33, 0xEE, 0x1B, 0x68, 0xC7, 0x4B, 0x04,
  0x64, 0xE0, 0x0E, 0x34, 0x8D, 0xEF, 0x81, 0x1C, 0xC1, 0x69, 0xF8, 0xC8, 0x08, 0x4C, 0x71, 0x05,
  0x8A, 0x65, 0x2F, 0xE1, 0x24, 0x0F, 0x21, 0x35, 0x93, 0x8E, 0xDA, 0xF0, 0x12, 0x82, 0x45, 0x1D,
  0xB5, 0xC2, 0x7D, 0x6A, 0x27, 0xF9, 0xB9, 0xC9, 0x9A, 0x09, 0x78, 0x4D, 0xE4, 0x72, 0xA6, 0x06,
  0xBF, 0x8B, 0x62, 0x66, 0xDD, 0x30, 0xFD, 0xE2, 0x98, 0x25, 0xB3, 0x10, 0x91, 0x22, 0x88, 0x36,
  0xD0, 0x94, 0xCE, 0x8F, 0x96, 0xDB, 0xBD, 0xF1, 0xD2, 0x13, 0x5C, 0x83, 0x38, 0x46, 0x40, 0x1E,
  0x42, 0xB6, 0xA3, 0xC3, 0x48, 0x7E, 0x6E, 0x6B, 0x3A, 0x28, 0x54, 0xFA, 0x85, 0xBA, 0x3D, 0xCA,
  0x5E, 0x9B, 0x9F, 0x0A, 0x15, 0x79, 0x2B, 0x4E, 0xD4, 0xE5, 0xAC, 0x73, 0xF3, 0xA7, 0x57, 0x07]

/-- `LOG2` (rule R31), indices 129 to 255. -/
def log2TablePart1 : List Nat := [
  0x70, 0xC0, 0xF7, 0x8C, 0x80, 0x63, 0x0D, 0x67, 0x4A, 0xDE, 0xED, 0x31, 0xC5, 0xFE, 0x18, 0xE3,
  0xA5, 0x99, 0x77, 0x26, 0xB8, 0xB4, 0x7C, 0x11, 0x44, 0x92, 0xD9, 0x23, 0x20, 0x89, 0x2E, 0x37,
  0x3F, 0xD1, 0x5B, 0x95, 0xBC, 0xCF, 0xCD, 0x90, 0x87, 0x97, 0xB2, 0xDC, 0xFC, 0xBE, 0x61, 0xF2,
  0x56, 0xD3, 0xAB, 0x14, 0x2A, 0x5D, 0x9E, 0x84, 0x3C, 0x39, 0x53, 0x47, 0x6D, 0x41, 0xA2, 0x1F,
  0x2D, 0x43, 0xD8, 0xB7, 0x7B, 0xA4, 0x76, 0xC4, 0x17, 0x49, 0xEC, 0x7F, 0x0C, 0x6F, 0xF6, 0x6C,
  0xA1, 0x3B, 0x52, 0x29, 0x9D, 0x55, 0xAA, 0xFB, 0x60, 0x86, 0xB1, 0xBB, 0xCC, 0x3E, 0x5A, 0xCB,
  0x59, 0x5F, 0xB0, 0x9C, 0xA9, 0xA0, 0x51, 0x0B, 0xF5, 0x16, 0xEB, 0x7A, 0x75, 0x2C, 0xD7, 0x4F,
  0xAE, 0xD5, 0xE9, 0xE6, 0xE7, 0xAD, 0xE8, 0x74, 0xD6, 0xF4, 0xEA, 0xA8, 0x50, 0x58, 0xAF]

/-- The 255 entries `LOG2[1]` to `LOG2[255]` (rule R31); `LOG2[0]` has no value. -/
def log2Table : List Nat := log2TablePart0 ++ log2TablePart1

/-- `POW2[e]`, defined for `e` in 0..510 (rule R29). -/
def pow2 (e : Nat) : Byte := BitVec.ofNat 8 (pow2Table.getD e 0)

/-- `LOG2[a]` as an exponent (rules R31, R86: exponents are natural numbers). `LOG2[0]` is the sentinel, a constant without a
value. -/
def log2 (a : Byte) : Nat :=
  if a = 0 then Config.log2Sentinel.toNat else log2Table.getD (a.toNat - 1) 0

/-! ### The functions (rules R81 to R88). -/

/-- `exp2(a, e)`: `a` times `2^e`, for `e` in 0..255. The zero test comes first (rule R81). -/
def exp2 (a : Byte) (e : Nat) : Byte := if a = 0 then 0 else pow2 (e + log2 a)

/-- The reduction polynomial `POLY` = x^8 + x^4 + x^3 + x^2 + 1 (rules R6, R92; log entry 19). -/
def poly : Nat := 0x11D

/-- Doubling with reduction (rule R82). -/
def mul2 (a : Byte) : Byte := (a <<< 1) ^^^ (if a.getLsbD 7 then BitVec.ofNat 8 poly else 0)

/-- Multiplication by 4 (rule R83). -/
def mul4 (a : Byte) : Byte := mul2 (mul2 a)

/-- The general product `a (*) b` (rule R87). -/
def gfmul (a b : Byte) : Byte := if a = 0 ∨ b = 0 then 0 else pow2 (log2 a + log2 b)

/-- The inverse of `a`, for `a ≠ 0` (rule R88). -/
def gfinv (a : Byte) : Byte := pow2 (255 - log2 a)

/-- The quotient, for `b ≠ 0` (rule R88). -/
def gfdiv (a b : Byte) : Byte := gfmul a (gfinv b)

/-- The field element `2^(e)` for any natural number `e` (rule R86). -/
def twoPow (e : Nat) : Byte := pow2 (e % 255)

/-- The field element `4^(e)` = `2^(2e)` (rule R86). -/
def fourPow (e : Nat) : Byte := twoPow (2 * e)

/-- The coefficient of data column `i` of `n` in Q: `2^(n-1-i)` (rule R90). -/
def qCoef (n i : Nat) : Byte := twoPow (n - 1 - i)

/-- The coefficient of data column `i` of `n` in R: `4^(n-1-i)` (rule R90). -/
def rCoef (n i : Nat) : Byte := fourPow (n - 1 - i)

/-- `XOR_{i in l} f(i)`, 0 for no index (rule R7). -/
def xorOver (f : Nat → Byte) : List Nat → Byte
  | [] => 0
  | i :: rest => f i ^^^ xorOver f rest

/-! ### The field itself (rule R92): polynomials over GF(2) modulo `POLY`. -/

/-- The product of two bytes as polynomials over GF(2), before reduction: up to degree 14. -/
def polyProduct (a b : Byte) : BitVec 16 :=
  (List.range 8).foldl (fun acc i => if b.getLsbD i then acc ^^^ (a.setWidth 16 <<< i) else acc) 0

/-- Clear the coefficient of x^i, `i ≥ 8`, by adding a multiple of `POLY`. -/
def reduceAt (x : BitVec 16) (i : Nat) : BitVec 16 :=
  if x.getLsbD i then x ^^^ (BitVec.ofNat 16 poly <<< (i - 8)) else x

/-- Polynomial multiplication modulo `POLY`: what `(*)` is (rule R92). The tables compute the same function. -/
def polyMul (a b : Byte) : Byte :=
  ([14, 13, 12, 11, 10, 9, 8].foldl reduceAt (polyProduct a b)).setWidth 8

end Sys2Proof.Machine
end

