-- ==== Sys2Proof/Machine/Flags.lean ====
section
/-! DEFINITION. The condition flags of RZPE: the words STATUS and CAP, the codes of kinds and faults, and the parity sets of
the kinds (rules R15, R16, R61, R120, R122, R181). -/

namespace Sys2Proof.Machine

/-! ### Kinds -/

/-- The code of a kind in STATUS.KIND (rules R61, R120). -/
def Kind.code : Kind → Nat
  | .genP => 2
  | .genPQ => 3
  | .genPQR => 4
  | .recP => 6
  | .recQ => 7
  | .recR => 8
  | .recPQ => 9
  | .recPR => 10
  | .recQR => 11
  | .recPQR => 12
  | .gfExp2 => 13
  | .gfMul => 14

/-- The parity columns a kind writes (generation, rules R104 to R106) or reads (reconstruction, `U` of rule R120), in
ascending order: 0 = P, 1 = Q, 2 = R. -/
def Kind.parities : Kind → List Nat
  | .genP => [0]
  | .genPQ => [0, 1]
  | .genPQR => [0, 1, 2]
  | .recP => [0]
  | .recQ => [1]
  | .recR => [2]
  | .recPQ => [0, 1]
  | .recPR => [0, 2]
  | .recQR => [1, 2]
  | .recPQR => [0, 1, 2]
  | .gfExp2 => []
  | .gfMul => []

/-- Whether the kind is one of the three generation kinds. -/
def Kind.isGen : Kind → Bool
  | .genP => true
  | .genPQ => true
  | .genPQR => true
  | .recP => false
  | .recQ => false
  | .recR => false
  | .recPQ => false
  | .recPR => false
  | .recQR => false
  | .recPQR => false
  | .gfExp2 => false
  | .gfMul => false

/-- Whether the kind is that of a GF command, which touches neither the map nor memory (rule R61). -/
def Kind.isGf : Kind → Bool
  | .genP => false
  | .genPQ => false
  | .genPQR => false
  | .recP => false
  | .recQ => false
  | .recR => false
  | .recPQ => false
  | .recPR => false
  | .recQR => false
  | .recPQR => false
  | .gfExp2 => true
  | .gfMul => true

/-- The number of targets a kind recovers: `k` of rule R120, 0 for the other kinds. -/
def Kind.targetCount : Kind → Nat
  | .genP => 0
  | .genPQ => 0
  | .genPQR => 0
  | .recP => 1
  | .recQ => 1
  | .recR => 1
  | .recPQ => 2
  | .recPR => 2
  | .recQR => 2
  | .recPQR => 3
  | .gfExp2 => 0
  | .gfMul => 0

/-- The mask STATUS.USED reports: bit `i` = parity column `i` for a reconstruction kind, 0 for the others
(rules R16, R120, R122). -/
def Kind.usedMask : Kind → BitVec 3
  | .genP => 0b000
  | .genPQ => 0b000
  | .genPQR => 0b000
  | .recP => 0b001
  | .recQ => 0b010
  | .recR => 0b100
  | .recPQ => 0b011
  | .recPR => 0b101
  | .recQR => 0b110
  | .recPQR => 0b111
  | .gfExp2 => 0b000
  | .gfMul => 0b000

/-- STATUS.KIND: the code of the last accepted command's kind, 0 when none (rule R16). -/
def kindCode : Option Kind → Nat
  | none => 0
  | some k => k.code

/-- The mask that goes with a value of STATUS.KIND. -/
def kindUsed : Option Kind → BitVec 3
  | none => 0
  | some k => k.usedMask

/-! ### Faults -/

/-- The fault code of rule R181. -/
def FaultCode.code : FaultCode → Nat
  | .illegalCmd => 1
  | .badBackend => 2
  | .badParityCount => 3
  | .mapInvalid => 4
  | .addrRange => 5
  | .kindUnsupported => 6
  | .badTarget => 7
  | .noRoutine => 8
  | .overlap => 9
  | .unaligned => 10
  | .badOperand => 11
  | .busError => 12

/-- STATUS.FCODE, 0 when FAULT = 0 (rule R16). -/
def faultCode : Option FaultCode → Nat
  | none => 0
  | some f => f.code

/-! ### STATUS and CAP -/

/-- STATUS (rule R16): BUSY bit 0, DONE bit 1, FAULT bit 2, VCTX bit 3, KIND 7:4, USED 10:8, FCODE 23:16, all other
bits 0. -/
def State.statusWord (s : State) : Word :=
  BitVec.ofNat 64
    ((if s.seq = .busy then 1 else 0) + (if s.done then 1 else 0) * 2 ^ 1 + (if s.seq = .fault then 1 else 0) * 2 ^ 2
      + (if s.vctx then 1 else 0) * 2 ^ 3 + kindCode s.kind * 2 ^ 4 + s.used.toNat * 2 ^ 8
      + faultCode s.fcode * 2 ^ 16)

/-- BKND_SUP (rule R15): bit 0 is 1, bits 15:1 are the wide-vector backends. -/
def bkndSup (p : Platform) : Nat := 1 + p.wideSup.toNat * 2

/-- CAP (rule R15): BKND_SUP 15:0, LOGVB 23:16, NVREG 31:24, the latter two 0 without a wide-vector backend. -/
def capWord (p : Platform) : Word :=
  BitVec.ofNat 64
    (bkndSup p + (if hasWide p then p.logVB.toNat * 2 ^ 16 + p.nvreg.toNat * 2 ^ 24 else 0))

/-- Whether backend number `bk` is implemented: bit `bk` of BKND_SUP (rules R15, R63). -/
def backendSupported (p : Platform) (bk : Nat) : Bool :=
  match bk with
  | 0 => true
  | b + 1 => p.wideSup.getLsbD b

end Sys2Proof.Machine
end

