-- ==== Sys2Proof/Machine/Operands.lean ====
section
/-! DEFINITION. Every operand form of RZPE: the register file by number (rules R12 to R20), the map a command reads
(rules R21 to R28), the targets (rules R34, R64) and column addressing (rule R46). -/

namespace Sys2Proof.Machine

/-! ### Registers by number (rule R12) -/

/-- A field of a column-table entry, in the order of its number `f` (rule R20). -/
inductive ColField where
  | dev
  | off
  | len
  | ptr
  | flags
deriving DecidableEq, Repr

/-- The registers of rule R12. -/
inductive Reg where
  | cap
  | ctrl
  | status
  | cmd
  | ncols
  | nparity
  | colshift
  | tgt0
  | tgt1
  | tgt2
  | gfa
  | gfb
  | gfr
  | finfo
  | col (c : Nat) (f : ColField)
  | reserved
deriving DecidableEq, Repr

/-- Field number `f` of an entry of the column table; 5 to 7 are reserved (rules R12, R19, R20). -/
def columnReg (c f : Nat) : Reg :=
  match f with
  | 0 => .col c .dev
  | 1 => .col c .off
  | 2 => .col c .len
  | 3 => .col c .ptr
  | 4 => .col c .flags
  | _ => .reserved

/-- The register with number `r` (rule R12); register `256 + 8*c + f` is field `f` of `COL[c]`, `c` in 0..257. -/
def Reg.ofNumber (r : Nat) : Reg :=
  match r with
  | 0 => .cap
  | 1 => .ctrl
  | 2 => .status
  | 3 => .cmd
  | 4 => .ncols
  | 5 => .nparity
  | 6 => .colshift
  | 7 => .tgt0
  | 8 => .tgt1
  | 9 => .tgt2
  | 10 => .gfa
  | 11 => .gfb
  | 12 => .gfr
  | 13 => .finfo
  | r => if 256 ≤ r ∧ r < 2320 then columnReg ((r - 256) / 8) ((r - 256) % 8) else .reserved

/-- Whether the register is plain storage, RW in rule R12. -/
def Reg.isRw : Reg → Bool
  | .cap => false
  | .ctrl => false
  | .status => false
  | .cmd => false
  | .ncols => true
  | .nparity => true
  | .colshift => true
  | .tgt0 => true
  | .tgt1 => true
  | .tgt2 => true
  | .gfa => true
  | .gfb => true
  | .gfr => false
  | .finfo => false
  | .col _ _ => true
  | .reserved => false

/-- One field of a column. -/
def Column.get (x : Column) : ColField → Word
  | .dev => x.dev
  | .off => x.off
  | .len => x.len
  | .ptr => x.ptr
  | .flags => x.flags

/-- A column with one field replaced. -/
def Column.put (x : Column) (f : ColField) (v : Word) : Column :=
  match f with
  | .dev => { x with dev := v }
  | .off => { x with off := v }
  | .len => { x with len := v }
  | .ptr => { x with ptr := v }
  | .flags => { x with flags := v }

/-- Entry `c` of a column table (rule R19). There is none for `c > 257`, and no accepted command reads one (rule R27; log
entry 23). -/
def columnAt (table : ColumnTable) (c : Nat) : Column := (table[c]?).getD Column.zero

/-- `COL[c]` (rule R19). -/
def State.column (s : State) (c : Nat) : Column := columnAt s.cols c

/-- What a host read of a register returns; it changes nothing (rules R12 to R20, R173). CTRL and CMD are write-only and read
as 0 (rules R17, R18); a reserved number reads as 0 (rule R14). -/
def State.readReg (s : State) : Reg → Word
  | .cap => capWord s.platform
  | .ctrl => 0
  | .status => s.statusWord
  | .cmd => 0
  | .ncols => s.ncols
  | .nparity => s.nparity
  | .colshift => s.colshift
  | .tgt0 => s.tgt0
  | .tgt1 => s.tgt1
  | .tgt2 => s.tgt2
  | .gfa => s.gfa
  | .gfb => s.gfb
  | .gfr => s.gfr
  | .finfo => s.finfo
  | .col c f => (s.column c).get f
  | .reserved => 0

/-- Storing all 64 bits in an RW register; a number that is read-only or reserved ignores the write (rules R12, R14). CTRL
and CMD are actions, not storage, and stand in HostPort.lean. -/
def State.writeReg (s : State) (r : Reg) (v : Word) : State :=
  match r with
  | .cap => s
  | .ctrl => s
  | .status => s
  | .cmd => s
  | .ncols => { s with ncols := v }
  | .nparity => { s with nparity := v }
  | .colshift => { s with colshift := v }
  | .tgt0 => { s with tgt0 := v }
  | .tgt1 => { s with tgt1 := v }
  | .tgt2 => { s with tgt2 := v }
  | .gfa => { s with gfa := v }
  | .gfb => { s with gfb := v }
  | .gfr => s
  | .finfo => s
  | .col c f => { s with cols := s.cols.setIfInBounds c ((s.column c).put f v) }
  | .reserved => s

/-! ### The map (rules R21 to R28) -/

/-- PTR and LEN of a column as natural numbers: the engine reads nothing else of it (rules R7, R20). -/
def Column.segment (x : Column) : Segment := ⟨x.ptr.toNat, x.len.toNat⟩

/-- The map registers and TGT0 to TGT2 as they stand (rules R62, R64). -/
def State.descriptor (s : State) : Descriptor := ⟨s.ncols, s.nparity, s.colshift, s.cols, s.tgt0, s.tgt1, s.tgt2⟩

/-- The map that a descriptor holds (rule R21). -/
def Descriptor.map (d : Descriptor) : RaidzMap where
  np := d.nparity.toNat
  colshift := d.colshift.toNat
  cols := (List.range d.ncols.toNat).map fun c => (columnAt d.cols c).segment

/-- The map that the registers hold. -/
def State.mapOf (s : State) : RaidzMap := s.descriptor.map

/-- The map that a command runs on: that of the registers it latched (rules R38(a), R62). A GF command reads none
(rule R61). -/
def Latch.map (l : Latch) : RaidzMap := l.desc.map

namespace RaidzMap

/-- `ncols`, the total column count (rule R21). -/
def ncols (m : RaidzMap) : Nat := m.cols.length

/-- `n`, the number of data columns (rule R21). -/
def n (m : RaidzMap) : Nat := m.ncols - m.np

/-- The byte range of map index `c`. -/
def col (m : RaidzMap) (c : Nat) : Segment := m.cols.getD c ⟨0, 0⟩

/-- Data column `i` is map index `np + i` (rule R23). -/
def dataCol (m : RaidzMap) (i : Nat) : Segment := m.col (m.np + i)

/-- `len[i]` (rule R21). -/
def len (m : RaidzMap) (i : Nat) : Nat := (m.dataCol i).len

/-- `L`, the common column size (rule R21). -/
def commonLen (m : RaidzMap) : Nat := m.len 0

/-- `S`, the size of the last data column (rule R21). -/
def shortLen (m : RaidzMap) : Nat := m.len (m.n - 1)

/-- Parity column `k` as the data pass uses it: `L` bytes at `COL[k].PTR` (rules R24, R46; log entry 23). -/
def parityCol (m : RaidzMap) (k : Nat) : Segment := ⟨(m.col k).ptr, m.commonLen⟩

/-- `bigColumnCount`: how many columns, parity and data, have the common length (rules R21, R26). -/
def bigColumnCount (m : RaidzMap) : Nat := m.cols.countP fun x => x.len = m.commonLen

/-- `bigDataCount`: how many data columns have the common length (rule R21, 90_conflicts.md C2). -/
def bigDataCount (m : RaidzMap) : Nat := (m.cols.drop m.np).countP fun x => x.len = m.commonLen

end RaidzMap

/-! ### Targets (rules R34, R64, R121) -/

/-- `TGT0`, `TGT1`, `TGT2` as map indices. -/
def Descriptor.targetRegs (d : Descriptor) : List Nat := [d.tgt0.toNat, d.tgt1.toNat, d.tgt2.toNat]

/-- The `k` targets of a reconstruction: TGT0..TGT(k-1); the rest is ignored (rule R34). -/
def Descriptor.targets (d : Descriptor) (k : Nat) : List Nat := d.targetRegs.take k

/-- The target registers as they stand. -/
def State.targetRegs (s : State) : List Nat := s.descriptor.targetRegs

/-- The first `k` of them. -/
def State.targets (s : State) (k : Nat) : List Nat := s.descriptor.targets k

/-- The targets of a latched command: as many of the latched registers as its kind has (rules R64, R120). -/
def Latch.targets (l : Latch) : List Nat := l.desc.targets l.kind.targetCount

/-! ### Byte ranges -/

/-- The addresses of a byte range, lowest first. -/
def Segment.addrs (g : Segment) : List Nat := (List.range g.len).map fun o => g.ptr + o

/-- Whether the address lies in the range. -/
def Segment.contains (g : Segment) (a : Nat) : Bool := decide (g.ptr ≤ a ∧ a < g.ptr + g.len)

/-- Whether two ranges share a byte; an empty range shares none (rule R49). -/
def Segment.overlaps (g h : Segment) : Bool :=
  decide (0 < g.len ∧ 0 < h.len ∧ g.ptr < h.ptr + h.len ∧ h.ptr < g.ptr + g.len)

/-! ### Which columns a kind touches (rule R47) -/

/-- The map indices a kind writes, ascending: its parities (generation) or its targets (reconstruction;
a GF kind has none). -/
def writtenCols (k : Kind) (targets : List Nat) : List Nat :=
  if k.isGen then k.parities else targets

/-- The map indices a kind reads: every data column (generation); the parities in `U` and every data column that is no
target (reconstruction). A GF kind reads none (rule R61). -/
def readCols (k : Kind) (m : RaidzMap) (targets : List Nat) : List Nat :=
  let data := (List.range m.n).map fun i => m.np + i
  if k.isGf then []
  else if k.isGen then data
  else k.parities ++ data.filter fun c => !targets.contains c

/-- The map indices a kind reads or writes, ascending: `A` of rule R49, an empty range for a column with LEN = 0. DESIGN CHOICE:
such a column, of which no byte is read or written, is counted for the alignment check of rule R44 too (log entry 25). -/
def involvedCols (k : Kind) (m : RaidzMap) (targets : List Nat) : List Nat :=
  (List.range m.ncols).filter fun c => (writtenCols k targets).contains c || (readCols k m targets).contains c

/-- The byte range of a column as a data pass uses it (rule R47): a parity column has `L` bytes. -/
def RaidzMap.span (m : RaidzMap) (c : Nat) : Segment := if c < m.np then m.parityCol c else m.col c

/-- The byte ranges a kind must write (rule R47). -/
def writeSpans (k : Kind) (m : RaidzMap) (targets : List Nat) : List Segment :=
  (writtenCols k targets).map m.span

/-- The byte ranges a kind may read (rule R47). -/
def readSpans (k : Kind) (m : RaidzMap) (targets : List Nat) : List Segment :=
  (readCols k m targets).map m.span

/-- The offsets at which the value read can matter: all below `L` for a generation, those below the length of some target
for a reconstruction (last paragraph of rule R47). -/
def reach (k : Kind) (m : RaidzMap) (targets : List Nat) : Nat :=
  if k.isGen then m.commonLen else (targets.map fun c => (m.col c).len).foldl max 0

/-- The byte ranges whose reads no implementation may skip (rule R47). -/
def mustReadSpans (k : Kind) (m : RaidzMap) (targets : List Nat) : List Segment :=
  (readSpans k m targets).map fun g => { g with len := min g.len (reach k m targets) }

/-- Whether the latched command may write the byte at `a`. -/
def Latch.writes (l : Latch) (a : Nat) : Bool :=
  (writeSpans l.kind l.map l.targets).any fun g => g.contains a

/-- Whether the latched command may read the byte at `a`. -/
def Latch.reads (l : Latch) (a : Nat) : Bool :=
  (readSpans l.kind l.map l.targets).any fun g => g.contains a

end Sys2Proof.Machine
end

