-- ==== Sys2Proof/Machine/Ops.lean ====
section
/-! DEFINITION. The shared operations: data memory, the issue checks in their order, fault entry, acceptance, the end of a
command, bus errors, soft and hardware reset (rules R39, R43 to R49, R62, R66, R171, R172, R181 to R190, R210). -/

namespace Sys2Proof.Machine

/-! ### Data memory (rules R40, R42, R43) -/

/-- What an address that is not listed reads as: 0 (log entry 1). -/
def Memory.blank : Byte := 0

/-- The byte at an address (rule R43). -/
def Memory.read : Memory → Nat → Byte
  | [], _ => Memory.blank
  | (k, v) :: rest, a => if k = a then v else Memory.read rest a

/-- The memory without an entry for the address. -/
def Memory.erase (m : Memory) (a : Nat) : Memory := m.filter fun c => c.1 ≠ a

/-- The memory with one entry put in before the first larger address. -/
def Memory.insert : Memory → Nat → Byte → Memory
  | [], a, b => [(a, b)]
  | (k, v) :: rest, a, b => if a < k then (a, b) :: (k, v) :: rest else (k, v) :: Memory.insert rest a b

/-- Make one location hold a byte (rule R43), in the canonical form. -/
def Memory.write (m : Memory) (a : Nat) (b : Byte) : Memory :=
  if b = Memory.blank then Memory.erase m a else Memory.insert (Memory.erase m a) a b

/-- Make several locations hold bytes, the first of the list first. -/
def Memory.writeAll (m : Memory) (cells : List Host.Cell) : Memory :=
  cells.foldl (fun acc c => Memory.write acc c.1 c.2) m

/-- The canonical form: addresses strictly rising, no entry equal to what an unlisted address reads as. -/
abbrev Memory.wf (m : Memory) : Prop :=
  m.Pairwise (fun c d => c.1 < d.1) ∧ ∀ c ∈ m, c.2 ≠ Memory.blank

/-- The platform predicate `Mapped` (rules R6, R41): the address exists and the platform backs it. -/
def mapped (p : Platform) (a : Nat) : Bool :=
  decide (a < 2 ^ 64) && p.holes.all fun h => decide (a < h.base ∨ h.base + h.size ≤ a)

/-! ### Faults (rules R181, R187) -/

/-- A fault about to be raised: its code and its information word (rule R181). -/
structure Reject where
  code : FaultCode
  info : Word
deriving DecidableEq, Repr

/-- `raise code(info)` with a natural number as information. -/
def reject (code : FaultCode) (info : Nat) : Reject := ⟨code, BitVec.ofNat 64 info⟩

/-- TAKING A FAULT at issue (rule R187): the fault record is written, DONE, KIND and USED are cleared, nothing else
changes. There is no handler and no saved state. -/
def State.raiseFault (s : State) (r : Reject) : State :=
  { s with seq := .fault, fcode := some r.code, finfo := r.info, done := false, kind := none, used := 0 }

/-! ### Issue checks (rules R182, R183, R186) -/

/-- BAD_BACKEND: BKND names a backend that CAP does not list (rules R63, R181). -/
def checkBackend (bk : Nat) (s : State) : Option Reject :=
  if backendSupported s.platform bk then none else some (reject .badBackend bk)

/-- BAD_PARITY_COUNT: the whole 64-bit NPARITY is not 1, 2 or 3 (rules R22, R182). -/
def checkParityCount (s : State) : Option Reject :=
  if 1 ≤ s.nparity.toNat ∧ s.nparity.toNat ≤ 3 then none else some ⟨.badParityCount, s.nparity⟩

/-- The first of the sub-checks 3, 4, 5 of MAP_INVALID that map index `c` fails (rule R183). -/
def columnDefect (m : RaidzMap) (c : Nat) : Option Nat :=
  if c < m.np ∧ (m.col c).len ≠ m.commonLen then some 3
  else if m.np ≤ c ∧ ((c + 1 < m.ncols ∧ (m.col c).len ≠ m.commonLen) ∨
      (c + 1 = m.ncols ∧ m.commonLen < (m.col c).len)) then some 4
  else if (m.col c).len % 2 ^ m.colshift ≠ 0 then some 5
  else none

/-- MAP_INVALID with information `sub << 16 | c`, in the order of rule R183. The column count and the column-shift are
looked at before any column is. -/
def checkMap (s : State) : Option Reject :=
  if s.ncols.toNat < s.nparity.toNat + 1 ∨ s.nparity.toNat + 255 < s.ncols.toNat then
    some (reject .mapInvalid (1 * 2 ^ 16))
  else if 64 ≤ s.colshift.toNat then some (reject .mapInvalid (2 * 2 ^ 16))
  else (List.range s.ncols.toNat).findSome? fun c =>
    (columnDefect s.mapOf c).map fun sub => reject .mapInvalid (sub * 2 ^ 16 + c)

/-- ADDR_RANGE: the lowest map index whose column wraps the address space (rule R45). -/
def checkAddrRange (m : RaidzMap) : Option Reject :=
  ((List.range m.ncols).find? fun c => decide (2 ^ 64 < (m.col c).ptr + (m.col c).len)).map
    fun c => reject .addrRange c

/-- KIND_UNSUPPORTED: the kind names a parity column that the map lacks (rules R109, R137). -/
def checkKind (k : Kind) (m : RaidzMap) : Option Reject :=
  if k.parities.all fun p => decide (p < m.np) then none else some (reject .kindUnsupported k.code)

/-- Whether target register `j` is acceptable: the map index of a data column, greater than its predecessor (rule R121). -/
def targetOk (m : RaidzMap) (targets : List Nat) (j : Nat) : Bool :=
  let t := targets.getD j 0
  decide (m.np ≤ t ∧ t < m.ncols) && (decide (j = 0) || decide (targets.getD (j - 1) 0 < t))

/-- BAD_TARGET for a reconstruction of `k` targets: 3 when `k` = 0, else the first offending register (rule R121). -/
def checkTargets (k : Nat) (m : RaidzMap) (targets : List Nat) : Option Reject :=
  if k = 0 then some (reject .badTarget 3)
  else ((List.range k).find? fun j => !targetOk m targets j).map fun j => reject .badTarget j

/-- OVERLAP: the lexicographically least pair of a written map index `w` and another involved one `c` that share a byte, as
`w << 16 | c` (rules R49, R181). -/
def checkOverlap (k : Kind) (m : RaidzMap) (targets : List Nat) : Option Reject :=
  (writtenCols k targets).findSome? fun w =>
    ((involvedCols k m targets).find? fun c => decide (c ≠ w) && (m.col w).overlaps (m.col c)).map
      fun c => reject .overlap (w * 2 ^ 16 + c)

/-- UNALIGNED: the lowest involved map index whose PTR or LEN is no multiple of VBYTES, on a wide-vector backend
(rule R44); empty columns are checked too (log entry 25). -/
def checkAligned (bk : Nat) (s : State) (k : Kind) (m : RaidzMap) (targets : List Nat) : Option Reject :=
  if bk = 0 then none
  else ((involvedCols k m targets).find? fun c =>
      decide ((m.col c).ptr % vbytes s.platform ≠ 0 ∨ (m.col c).len % vbytes s.platform ≠ 0)).map
    fun c => reject .unaligned c

/-- The checks of a map command that come before its kind is known: (2) to (5) of rule R186. -/
def checksBeforeKind (bk : Nat) (s : State) : Option Reject :=
  (checkBackend bk s).orElse fun _ =>
  (checkParityCount s).orElse fun _ =>
  (checkMap s).orElse fun _ => checkAddrRange s.mapOf

/-- The checks that need the kind and the targets: (9) and (10) of rule R186. -/
def checksAfterKind (bk : Nat) (s : State) (k : Kind) : Option Reject :=
  (checkOverlap k s.mapOf (s.targets k.targetCount)).orElse fun _ =>
  checkAligned bk s k s.mapOf (s.targets k.targetCount)

/-! ### Choosing the kind: (6) to (8) of rule R186 -/

/-- GEN: dispatch on the parity count, 1, 2 or 3 after the map check (rule R103). -/
def selectGen (s : State) : Except Reject Kind :=
  match s.nparity.toNat with
  | 1 => .ok .genP
  | 2 => .ok .genPQ
  | _ => .ok .genPQR

/-- A direct generation kind: KIND_UNSUPPORTED when the map lacks one of its parities (rule R109). -/
def selectDirectGen (k : Kind) (s : State) : Except Reject Kind :=
  match checkKind k s.mapOf with
  | some r => .error r
  | none => .ok k

/-- A direct reconstruction kind: its parities must exist and its targets be acceptable (rules R121, R137). -/
def selectDirectRec (k : Kind) (s : State) : Except Reject Kind :=
  match (checkKind k s.mapOf).orElse fun _ => checkTargets k.targetCount s.mapOf (s.targets k.targetCount) with
  | some r => .error r
  | none => .ok k

/-- The lookup of rule R123 on the mask of valid parities and the number of targets: the lowest-numbered parities first. -/
def lookupKind (valid : Nat) (k : Nat) : Option Kind :=
  let p := valid.testBit 0
  let q := valid.testBit 1
  let r := valid.testBit 2
  match k with
  | 1 => if p then some .recP else if q then some .recQ else if r then some .recR else none
  | 2 => if p && q then some .recPQ else if p && r then some .recPR else if q && r then some .recQR else none
  | 3 => if p && q && r then some .recPQR else none
  | _ => none

/-- REC: the targets, then the lookup; a mask that names a parity the map lacks matches no routine (rule R123). -/
def selectRec (valid tcnt : Nat) (s : State) : Except Reject Kind :=
  match checkTargets tcnt s.mapOf (s.targets tcnt) with
  | some r => .error r
  | none =>
    if valid / 2 ^ s.nparity.toNat ≠ 0 then .error (reject .noRoutine (valid * 2 ^ 8 + tcnt))
    else match lookupKind valid tcnt with
      | some k => .ok k
      | none => .error (reject .noRoutine (valid * 2 ^ 8 + tcnt))

/-! ### Issue (rule R62) -/

/-- Acceptance of a command: KIND and USED are set, the command is latched, VCTX is acquired on a wide-vector backend, and
the engine is BUSY (rules R62, R151). -/
def State.accept (s : State) (l : Latch) : State :=
  { s with
    done := false, kind := some l.kind, used := l.kind.usedMask, latched := some l,
    vctx := decide (l.bk ≠ 0), seq := .busy }

/-- What a command of kind `k` latches: its kind, its backend, the map registers, TGT0 to TGT2, GFA and GFB as they stand
(rules R38(a), R62). -/
def State.latch (s : State) (i : Instr) (bk : Nat) (k : Kind) : Latch := ⟨i, k, bk, s.descriptor, s.gfa, s.gfb, false⟩

/-- Issue of a map command in IDLE: the checks in the order of rule R186, the first that fails raises its fault; otherwise
the command is accepted (rule R62). -/
def issueMap (i : Instr) (bk : Nat) (select : State → Except Reject Kind) (s : State) : State :=
  match checksBeforeKind bk s with
  | some r => s.raiseFault r
  | none =>
    match select s with
    | .error r => s.raiseFault r
    | .ok k =>
      match checksAfterKind bk s k with
      | some r => s.raiseFault r
      | none => s.accept (s.latch i bk k)

/-- BAD_OPERAND: GFA or GFB above 255, GFA reported when both are (rules R80, R84, R181). -/
def checkGfOperands (s : State) : Option Reject :=
  if 255 < s.gfa.toNat then some (reject .badOperand 0)
  else if 255 < s.gfb.toNat then some (reject .badOperand 1)
  else none

/-- Issue of a GF command in IDLE; its BKND is 0 (rules R61, R62, R186). -/
def issueGf (i : Instr) (k : Kind) (s : State) : State :=
  match checkGfOperands s with
  | some r => s.raiseFault r
  | none => s.accept (s.latch i 0 k)

/-! ### Leaving BUSY (rules R66, R151, R171, R184) -/

/-- The memory after every byte of the ranges that exists took an unspecified value, each independently (U9). -/
def scramble (p : Platform) (ctr : Nat) (spans : List Segment) (mem : Memory) : Memory :=
  mem.writeAll (((spans.flatMap Segment.addrs).filter (mapped p)).map fun a => (a, Config.freeByte ctr a))

/-- The memory after the latched command, if there is one, was abandoned or raced (U7, U9). -/
def State.scrambled (s : State) : Memory :=
  match s.latched with
  | none => s.mem
  | some l => scramble s.platform s.freeCtr (writeSpans l.kind l.map l.targets) s.mem

/-- The vector register file when its content has just become unspecified (rule R37). -/
def State.freshVfile (s : State) : VectorFile := freeFile s.platform s.freeCtr

/-- The end of a command, with its result register and the memory it leaves (rule R66): VCTX is released, SEQ is IDLE, DONE
is 1; KIND and USED keep their values. The vector file is unspecified afterwards (rule R37). -/
def State.finish (s : State) (gfr : Word) (mem : Memory) : State :=
  { s with
    gfr := gfr, mem := mem, vctx := false, seq := .idle, done := true, latched := none,
    vfile := s.freshVfile, freeCtr := s.freeCtr + 1 }

/-- BUS_ERROR in the data pass (rule R184): VCTX is released, KIND and USED keep their values, the bytes the command may
write hold unspecified values. -/
def State.busError (s : State) (addr : Nat) : State :=
  { s with
    mem := s.scrambled, seq := .fault, vctx := false, fcode := some .busError, finfo := BitVec.ofNat 64 addr,
    latched := none, vfile := s.freshVfile, freeCtr := s.freeCtr + 1 }

/-- Soft reset, CTRL bit 0 (rules R39, R171), in any state; a BUSY command is abandoned. The descriptor and the operand
registers stay. -/
def State.softReset (s : State) : State :=
  { s with
    mem := s.scrambled, seq := .idle, done := false, vctx := false, kind := none, used := 0, fcode := none,
    finfo := 0, gfr := 0, latched := none, vfile := s.freshVfile, freeCtr := s.freeCtr + 1 }

/-- ACK, CTRL bit 1 (rule R172). -/
def State.ack (s : State) : State := { s with done := false }

/-- A write of CTRL (rule R17): bit 0 resets, else bit 1 acknowledges, else nothing. -/
def State.writeCtrl (s : State) (v : Word) : State :=
  if v.getLsbD 0 then s.softReset else if v.getLsbD 1 then s.ack else s

/-- A column table of free values: what the table holds after a hardware reset (rule R39, U5). -/
def freeTable (ctr : Nat) : ColumnTable :=
  Vector.ofFn fun c =>
    ⟨Config.freeColumn ctr c 0, Config.freeColumn ctr c 1, Config.freeColumn ctr c 2, Config.freeColumn ctr c 3,
      Config.freeColumn ctr c 4⟩

/-- Hardware reset during a run (rules R39, R210), in any state. Data memory is not affected, but a command that was running
leaves what its written bytes held while BUSY, which is unspecified (rule R48, U10). Writes that are held stay held until
the next step performs them (rule R13; log entry 14). -/
def State.hardReset (s : State) : State :=
  { s with
    mem := s.scrambled, seq := .idle, done := false, vctx := false, kind := none, used := 0, fcode := none,
    finfo := 0, gfr := 0, ncols := 0, nparity := 0, colshift := 0, tgt0 := 0, tgt1 := 0, tgt2 := 0, gfa := 0, gfb := 0,
    cols := freeTable s.freeCtr, latched := none, vfile := s.freshVfile, freeCtr := s.freeCtr + 1 }

/-! ### The data pass as a whole (rules R43, R47, R54, R184) -/

/-- The addresses of the ranges that are not mapped. -/
def unmappedIn (p : Platform) (spans : List Segment) : List Nat :=
  (spans.flatMap Segment.addrs).filter fun a => !mapped p a

/-- Which of the unmapped addresses of the access set a BUS_ERROR reports: the only one, or any of several
(U15; log entry 24). -/
def pickAddress (ctr : Nat) : List Nat → Nat
  | [] => 0
  | [a] => a
  | a :: b :: rest => (a :: b :: rest).getD (Config.freePick ctr % (rest.length + 2)) a

/-- Whether the data pass of a command meets an unmapped byte, and which address it reports (rules R43, R184). A read that
cannot matter may be skipped (rule R47): if no other access is unmapped, whether it faults is free. -/
def busFault (p : Platform) (ctr : Nat) (l : Latch) : Option Nat :=
  let written := writeSpans l.kind l.map l.targets
  let all := unmappedIn p (written ++ readSpans l.kind l.map l.targets)
  match all with
  | [] => none
  | _ :: _ =>
    if unmappedIn p (written ++ mustReadSpans l.kind l.map l.targets) = [] ∧ Config.freeSkip ctr = true then none
    else some (pickAddress ctr all)

/-- The end of a BUSY map command, its whole data pass as one transition (rules R54, R66, R184). `cells` gives the bytes the
kind writes, computed from the memory before the pass; if another agent raced with the command they are free (U7). (Log
entries 11, 12.) -/
def endPass (cells : Kind → RaidzMap → List Nat → Memory → List Host.Cell) (s : State) : State :=
  match s.latched with
  | none => s
  | some l =>
    match busFault s.platform s.freeCtr l with
    | some a => s.busError a
    | none =>
      if l.raced then s.finish s.gfr s.scrambled
      else s.finish s.gfr (s.mem.writeAll (cells l.kind l.map l.targets s.mem))

/-- The end of a BUSY GF command: GFR takes the field product of the latched operands, zero-extended (rules R66, R80,
R84). -/
def endGf (op : Byte → Byte → Byte) (s : State) : State :=
  match s.latched with
  | none => s
  | some l => s.finish ((op (l.gfa.setWidth 8) (l.gfb.setWidth 8)).setWidth 64) s.mem

/-! ### A command's own transitions -/

/-- A map command: in IDLE it is issued; in BUSY, as the latched command, its data pass ends it; in FAULT a CMD write is
ignored (rules R18, R62, R66, R190; log entry 17). -/
def mapCommand (i : Instr) (bk : Nat) (select : State → Except Reject Kind)
    (cells : Kind → RaidzMap → List Nat → Memory → List Host.Cell) (s : State) : Outcome :=
  match s.seq with
  | .idle => .next (issueMap i bk select s)
  | .busy => .next (endPass cells s)
  | .fault => .next s

/-- A GF command, likewise. -/
def gfCommand (i : Instr) (k : Kind) (op : Byte → Byte → Byte) (s : State) : Outcome :=
  match s.seq with
  | .idle => .next (issueGf i k s)
  | .busy => .next (endGf op s)
  | .fault => .next s

end Sys2Proof.Machine
end

