-- ==== Sys2Proof/Machine/GfArithmetic.lean ====
section
/-! DEFINITION. The GF commands GFEXP2 and GFMUL (rules R80, R84). -/

namespace Sys2Proof.Machine

/-- GFEXP2: GFR becomes `exp2(GFA, GFB)` (rule R80). -/
def execGfexp2 (s : State) : Outcome :=
  gfCommand .gfexp2 .gfExp2 (fun a e => exp2 a e.toNat) s

/-- GFMUL: GFR becomes `GFA (*) GFB` (rule R84). -/
def execGfmul (s : State) : Outcome :=
  gfCommand .gfmul .gfMul gfmul s

end Sys2Proof.Machine
end

