-- ==== Sys2Proof/Machine/ParityGeneration.lean ====
section
/-! DEFINITION. Parity generation: GEN, GENP, GENPQ, GENPQR (rules R100 to R109). -/

namespace Sys2Proof.Machine

/-! ### What is computed (rules R100, R101) -/

/-- `d[i][o]`, the byte of data column `i` at offset `o` (rule R46). -/
def dataByte (m : RaidzMap) (mem : Memory) (i o : Nat) : Byte := mem.read ((m.dataCol i).ptr + o)

/-- `D[i][o]`, the zero-padded data byte (rule R100). -/
def paddedByte (m : RaidzMap) (mem : Memory) (i o : Nat) : Byte := if o < m.len i then dataByte m mem i o else 0

/-- `P[o]` (rule R101). -/
def parityP (m : RaidzMap) (mem : Memory) (o : Nat) : Byte :=
  xorOver (fun i => paddedByte m mem i o) (List.range m.n)

/-- `Q[o]` (rule R101). -/
def parityQ (m : RaidzMap) (mem : Memory) (o : Nat) : Byte :=
  xorOver (fun i => gfmul (qCoef m.n i) (paddedByte m mem i o)) (List.range m.n)

/-- `R[o]` (rule R101). -/
def parityR (m : RaidzMap) (mem : Memory) (o : Nat) : Byte :=
  xorOver (fun i => gfmul (rCoef m.n i) (paddedByte m mem i o)) (List.range m.n)

/-- The parity that column `k` holds: P = 0, Q = 1, R = 2 (rule R23). -/
def parityValue (k : Nat) (m : RaidzMap) (mem : Memory) (o : Nat) : Byte :=
  match k with
  | 0 => parityP m mem o
  | 1 => parityQ m mem o
  | _ => parityR m mem o

/-! ### Two ways to compute it (rules R102, R107) -/

/-- The accumulators of the recurrence. -/
structure Accumulators where
  p : Byte
  q : Byte
  r : Byte
deriving DecidableEq, Repr

/-- One column of the recurrence: multiply by 1, 2, 4 and add the column's byte (rule R102). -/
def Accumulators.advance (x : Accumulators) (d : Byte) : Accumulators :=
  ⟨x.p ^^^ d, mul2 x.q ^^^ d, mul4 x.r ^^^ d⟩

/-- The Horner recurrence of rule R102 over the given bytes, first data column first. -/
def horner (bytes : List Byte) : Accumulators := bytes.foldl Accumulators.advance ⟨0, 0, 0⟩

/-- The recurrence over all `n` padded bytes at offset `o` (rule R102). -/
def hornerAt (m : RaidzMap) (mem : Memory) (o : Nat) : Accumulators :=
  horner ((List.range m.n).map fun i => paddedByte m mem i o)

/-- The two-phase computation of rule R107 at offset `o`: below `S` all columns, from `S` on the big columns and one more
advance of the multipliers for the skipped last column. -/
def twoPhaseAt (m : RaidzMap) (mem : Memory) (o : Nat) : Accumulators :=
  if o < m.shortLen then horner ((List.range m.n).map fun i => dataByte m mem i o)
  else
    let x := horner ((List.range (m.n - 1)).map fun i => dataByte m mem i o)
    ⟨x.p, mul2 x.q, mul4 x.r⟩

/-! ### The bytes a generation writes (rules R104 to R106) -/

/-- Parity column `k`: `L` bytes at `COL[k].PTR`. -/
def parityCells (k : Nat) (m : RaidzMap) (mem : Memory) : List Host.Cell :=
  (List.range m.commonLen).map fun o => ((m.col k).ptr + o, parityValue k m mem o)

/-- GenP writes P (rule R104). -/
def genPCells (m : RaidzMap) (mem : Memory) : List Host.Cell := parityCells 0 m mem

/-- GenPQ writes P and Q (rule R105). -/
def genPQCells (m : RaidzMap) (mem : Memory) : List Host.Cell := parityCells 0 m mem ++ parityCells 1 m mem

/-- GenPQR writes P, Q and R (rule R106). -/
def genPQRCells (m : RaidzMap) (mem : Memory) : List Host.Cell :=
  parityCells 0 m mem ++ parityCells 1 m mem ++ parityCells 2 m mem

/-- The rule that GEN performs for the kind it selected (rule R103). -/
def genCells (k : Kind) (m : RaidzMap) (mem : Memory) : List Host.Cell :=
  match k with
  | .genP => genPCells m mem
  | .genPQ => genPQCells m mem
  | .genPQR => genPQRCells m mem
  | .recP => []
  | .recQ => []
  | .recR => []
  | .recPQ => []
  | .recPR => []
  | .recQR => []
  | .recPQR => []
  | .gfExp2 => []
  | .gfMul => []

/-! ### The commands -/

/-- GEN (rule R103). -/
def execGen (bk : Nat) (s : State) : Outcome :=
  mapCommand (.gen bk) bk selectGen (fun k m _ mem => genCells k m mem) s

/-- GENP (rule R104). -/
def execGenp (bk : Nat) (s : State) : Outcome :=
  mapCommand (.genp bk) bk (selectDirectGen .genP) (fun _ m _ mem => genPCells m mem) s

/-- GENPQ (rule R105). -/
def execGenpq (bk : Nat) (s : State) : Outcome :=
  mapCommand (.genpq bk) bk (selectDirectGen .genPQ) (fun _ m _ mem => genPQCells m mem) s

/-- GENPQR (rule R106). -/
def execGenpqr (bk : Nat) (s : State) : Outcome :=
  mapCommand (.genpqr bk) bk (selectDirectGen .genPQR) (fun _ m _ mem => genPQRCells m mem) s

end Sys2Proof.Machine
end

