-- ==== Sys2Proof/Machine/Reconstruction.lean ====
section
/-! DEFINITION. Reconstruction: REC, RECP, RECQ, RECR, RECPQ, RECPR, RECQR, RECPQR (rules R120 to R138). -/

namespace Sys2Proof.Machine

/-! ### Syndromes (rule R124) -/

/-- The data indices of the targets: `x = TGT0 - np` and so on. -/
def dataTargets (m : RaidzMap) (targets : List Nat) : List Nat := targets.map fun t => t - m.np

/-- The surviving data columns, by data index. -/
def survivors (m : RaidzMap) (targets : List Nat) : List Nat :=
  (List.range m.n).filter fun i => !(dataTargets m targets).contains i

/-- `par[k][o]`, the stored byte of parity column `k` (rule R46). -/
def parByte (m : RaidzMap) (mem : Memory) (k o : Nat) : Byte := mem.read ((m.col k).ptr + o)

/-- `Ps[o]` (rule R124). -/
def syndromeP (m : RaidzMap) (targets : List Nat) (mem : Memory) (o : Nat) : Byte :=
  parByte m mem 0 o ^^^ xorOver (fun i => paddedByte m mem i o) (survivors m targets)

/-- `Qs[o]` (rule R124). -/
def syndromeQ (m : RaidzMap) (targets : List Nat) (mem : Memory) (o : Nat) : Byte :=
  parByte m mem 1 o ^^^ xorOver (fun i => gfmul (qCoef m.n i) (paddedByte m mem i o)) (survivors m targets)

/-- `Rs[o]` (rule R124). -/
def syndromeR (m : RaidzMap) (targets : List Nat) (mem : Memory) (o : Nat) : Byte :=
  parByte m mem 2 o ^^^ xorOver (fun i => gfmul (rCoef m.n i) (paddedByte m mem i o)) (survivors m targets)

/-! ### The closed forms (rules R126 to R132), on the syndromes of one offset -/

/-- RecP: the syndrome is the answer (rule R126). -/
def solveP (ps : Byte) : Byte := ps

/-- RecQ: division by `q(x)` through the inverse exponent `255 - (n-1-x)` (rule R127). -/
def solveQ (n x : Nat) (qs : Byte) : Byte := exp2 qs (255 - (n - 1 - x))

/-- RecR: the exponent of `4^(n-1-x)` is reduced mod 255 before it is subtracted (rule R128). -/
def solveR (n x : Nat) (rs : Byte) : Byte := exp2 rs (255 - 2 * (n - 1 - x) % 255)

/-- The elimination RecPQ and RecPR share, with the coefficients `a`, `b` of the two targets in the second equation: the
first unknown (rules R129, R130). -/
def solveTwo (a b ps ss : Byte) : Byte := gfmul (ss ^^^ gfmul b ps) (gfinv (a ^^^ b))

/-- RecPQ (rule R129). -/
def solvePQ (n x y : Nat) (ps qs : Byte) : List Byte :=
  let vx := solveTwo (qCoef n x) (qCoef n y) ps qs
  [vx, ps ^^^ vx]

/-- RecPR (rule R130). -/
def solvePR (n x y : Nat) (ps rs : Byte) : List Byte :=
  let vx := solveTwo (rCoef n x) (rCoef n y) ps rs
  [vx, ps ^^^ vx]

/-- RecQR (rule R131). -/
def solveQR (n x y : Nat) (qs rs : Byte) : List Byte :=
  let a := qCoef n x
  let b := qCoef n y
  let vx := gfmul (rs ^^^ gfmul b qs) (gfinv (gfmul a (a ^^^ b)))
  [vx, gfmul (qs ^^^ gfmul a vx) (gfinv b)]

/-- RecPQR: the first unknown directly, the others by back-substitution (rule R132). -/
def solvePQR (n x y z : Nat) (ps qs rs : Byte) : List Byte :=
  let a := qCoef n x
  let b := qCoef n y
  let c := qCoef n z
  let vx := gfmul (rs ^^^ gfmul (b ^^^ c) qs ^^^ gfmul (gfmul b c) ps) (gfinv (gfmul (a ^^^ b) (a ^^^ c)))
  let p1 := ps ^^^ vx
  let q1 := qs ^^^ gfmul a vx
  let vy := gfmul (q1 ^^^ gfmul c p1) (gfinv (b ^^^ c))
  [vx, vy, p1 ^^^ vy]

/-! ### The bytes a reconstruction writes -/

/-- Length-class gating (rule R133): the solution byte of target number `j` at offset `o` is stored to that target if and
only if `o` lies below its length; nothing else is stored. `sol o` lists the solution at offset `o`, in target order. -/
def targetCells (m : RaidzMap) (targets : List Nat) (sol : Nat → List Byte) : List Host.Cell :=
  targets.zipIdx.flatMap fun tj =>
    (List.range (m.col tj.1).len).map fun o => ((m.col tj.1).ptr + o, (sol o).getD tj.2 0)

/-- The data index of target number `j`: `x`, `y`, `z` of the rules. -/
def dataTarget (m : RaidzMap) (targets : List Nat) (j : Nat) : Nat := targets.getD j 0 - m.np

/-- RecP (rule R126). -/
def recPCells (m : RaidzMap) (targets : List Nat) (mem : Memory) : List Host.Cell :=
  targetCells m targets fun o => [solveP (syndromeP m targets mem o)]

/-- RecQ (rule R127). -/
def recQCells (m : RaidzMap) (targets : List Nat) (mem : Memory) : List Host.Cell :=
  targetCells m targets fun o => [solveQ m.n (dataTarget m targets 0) (syndromeQ m targets mem o)]

/-- RecR (rule R128). -/
def recRCells (m : RaidzMap) (targets : List Nat) (mem : Memory) : List Host.Cell :=
  targetCells m targets fun o => [solveR m.n (dataTarget m targets 0) (syndromeR m targets mem o)]

/-- RecPQ (rule R129). -/
def recPQCells (m : RaidzMap) (targets : List Nat) (mem : Memory) : List Host.Cell :=
  targetCells m targets fun o =>
    solvePQ m.n (dataTarget m targets 0) (dataTarget m targets 1) (syndromeP m targets mem o) (syndromeQ m targets mem o)

/-- RecPR (rule R130). -/
def recPRCells (m : RaidzMap) (targets : List Nat) (mem : Memory) : List Host.Cell :=
  targetCells m targets fun o =>
    solvePR m.n (dataTarget m targets 0) (dataTarget m targets 1) (syndromeP m targets mem o) (syndromeR m targets mem o)

/-- RecQR (rule R131). -/
def recQRCells (m : RaidzMap) (targets : List Nat) (mem : Memory) : List Host.Cell :=
  targetCells m targets fun o =>
    solveQR m.n (dataTarget m targets 0) (dataTarget m targets 1) (syndromeQ m targets mem o) (syndromeR m targets mem o)

/-- RecPQR (rule R132). -/
def recPQRCells (m : RaidzMap) (targets : List Nat) (mem : Memory) : List Host.Cell :=
  targetCells m targets fun o =>
    solvePQR m.n (dataTarget m targets 0) (dataTarget m targets 1) (dataTarget m targets 2)
      (syndromeP m targets mem o) (syndromeQ m targets mem o) (syndromeR m targets mem o)

/-- The rule that REC performs for the kind its lookup selected (rule R123). -/
def recCells (k : Kind) (m : RaidzMap) (targets : List Nat) (mem : Memory) : List Host.Cell :=
  match k with
  | .recP => recPCells m targets mem
  | .recQ => recQCells m targets mem
  | .recR => recRCells m targets mem
  | .recPQ => recPQCells m targets mem
  | .recPR => recPRCells m targets mem
  | .recQR => recQRCells m targets mem
  | .recPQR => recPQRCells m targets mem
  | .genP => []
  | .genPQ => []
  | .genPQR => []
  | .gfExp2 => []
  | .gfMul => []

/-! ### The commands -/

/-- REC (rule R123). -/
def execReconstruct (bk valid tcnt : Nat) (s : State) : Outcome :=
  mapCommand (.reconstruct bk valid tcnt) bk (selectRec valid tcnt) recCells s

/-- RECP (rule R126). -/
def execRecp (bk : Nat) (s : State) : Outcome :=
  mapCommand (.recp bk) bk (selectDirectRec .recP) (fun _ => recPCells) s

/-- RECQ (rule R127). -/
def execRecq (bk : Nat) (s : State) : Outcome :=
  mapCommand (.recq bk) bk (selectDirectRec .recQ) (fun _ => recQCells) s

/-- RECR (rule R128). -/
def execRecr (bk : Nat) (s : State) : Outcome :=
  mapCommand (.recr bk) bk (selectDirectRec .recR) (fun _ => recRCells) s

/-- RECPQ (rule R129). -/
def execRecpq (bk : Nat) (s : State) : Outcome :=
  mapCommand (.recpq bk) bk (selectDirectRec .recPQ) (fun _ => recPQCells) s

/-- RECPR (rule R130). -/
def execRecpr (bk : Nat) (s : State) : Outcome :=
  mapCommand (.recpr bk) bk (selectDirectRec .recPR) (fun _ => recPRCells) s

/-- RECQR (rule R131). -/
def execRecqr (bk : Nat) (s : State) : Outcome :=
  mapCommand (.recqr bk) bk (selectDirectRec .recQR) (fun _ => recQRCells) s

/-- RECPQR (rule R132). -/
def execRecpqr (bk : Nat) (s : State) : Outcome :=
  mapCommand (.recpqr bk) bk (selectDirectRec .recPQR) (fun _ => recPQRCells) s

end Sys2Proof.Machine
end

