-- ==== Sys2Proof/Machine/Dispatch.lean ====
section
/-! DEFINITION. One arm per command: the only match on Instr in the machine. -/

namespace Sys2Proof.Machine

-- What the engine does for command `i` in state `s` (rules R62, R66): the issue of it in IDLE, its end in BUSY.
def exec (i : Instr) (s : State) : Host.Outcome State Fault Refusal :=
  match i with
  | .gen bk => Sys2Proof.Machine.execGen bk s
  | .genp bk => Sys2Proof.Machine.execGenp bk s
  | .genpq bk => Sys2Proof.Machine.execGenpq bk s
  | .genpqr bk => Sys2Proof.Machine.execGenpqr bk s
  | .reconstruct bk valid tcnt => Sys2Proof.Machine.execReconstruct bk valid tcnt s
  | .recp bk => Sys2Proof.Machine.execRecp bk s
  | .recq bk => Sys2Proof.Machine.execRecq bk s
  | .recr bk => Sys2Proof.Machine.execRecr bk s
  | .recpq bk => Sys2Proof.Machine.execRecpq bk s
  | .recpr bk => Sys2Proof.Machine.execRecpr bk s
  | .recqr bk => Sys2Proof.Machine.execRecqr bk s
  | .recpqr bk => Sys2Proof.Machine.execRecpqr bk s
  | .gfexp2 => Sys2Proof.Machine.execGfexp2 s
  | .gfmul => Sys2Proof.Machine.execGfmul s

end Sys2Proof.Machine
end

