-- ==== Sys2Proof/Machine/HostPort.lean ====
section
/-! DEFINITION. The host's side of the machine: register writes and reads, writes held while BUSY, accesses to data memory,
reset, and whose turn it is (rules R10 to R18, R54, R62, R170 to R173, R190, R210). Step.lean only calls it. -/

namespace Sys2Proof.Machine

/-! ### Writes -/

/-- A value written to CMD in IDLE: the command it encodes is issued, or ILLEGAL_CMD is raised with the written value
(rules R18, R65, R181). -/
def issueWord (v : Word) (s : State) : Outcome :=
  match decode v with
  | .ok i => exec i s
  | .error _ => .next (s.raiseFault ⟨.illegalCmd, v⟩)

/-- Keep a write until SEQ leaves BUSY (rule R13, log entry 13). -/
def State.hold (s : State) (r : Nat) (v : Word) : State := { s with held := s.held ++ [(r, v)] }

/-- A host write of `v` to register number `r`. CTRL acts in every state and is never held (rules R13, R171, R172). CMD and
the RW registers: done in IDLE, held in BUSY (rule R13), ignored in FAULT (rule R190). All other numbers ignore it
(rules R12, R14). -/
def hostWrite (r : Nat) (v : Word) (s : State) : Outcome :=
  match Reg.ofNumber r with
  | .ctrl => .next (s.writeCtrl v)
  | .cmd =>
    match s.seq with
    | .idle => issueWord v s
    | .busy => .next (s.hold r v)
    | .fault => .next s
  | reg =>
    if reg.isRw then
      match s.seq with
      | .idle => .next (s.writeReg reg v)
      | .busy => .next (s.hold r v)
      | .fault => .next s
    else .next s

/-! ### Reads and data memory -/

/-- The host reads register number `r` (rules R12, R173). -/
def hostRead (r : Nat) (s : State) : State := { s with rdata := s.readReg (Reg.ofNumber r) }

/-- Whether the latched command reads or writes the byte at `a`. -/
def State.touches (s : State) (a : Nat) : Bool :=
  match s.latched with
  | none => false
  | some l => l.reads a || l.writes a

/-- Whether the latched command writes the byte at `a`. -/
def State.outputs (s : State) (a : Nat) : Bool :=
  match s.latched with
  | none => false
  | some l => l.writes a

/-- The state after another agent stored a byte; a command it raced with is marked. -/
def State.storeByte (s : State) (a : Nat) (b : Byte) : State :=
  { s with
    mem := s.mem.write a b, latched := s.latched.map fun l => { l with raced := l.raced || s.touches a } }

/-- The state after another agent loaded a byte; each free value is fresh. -/
def State.loadByte (s : State) (a : Nat) : State :=
  if s.outputs a then { s with rdata := (Config.freeByte s.freeCtr a).setWidth 64, freeCtr := s.freeCtr + 1 }
  else { s with rdata := (s.mem.read a).setWidth 64 }

/-- An agent outside the engine stores a byte. If a running command reads or writes that byte, it is a race: what the
command produces is then unspecified (rules R54, R216, U7; log entry 12). -/
def hostStore (a : Word) (b : Byte) (s : State) : Outcome :=
  if mapped s.platform a.toNat then .next (s.storeByte a.toNat b) else .fault (.hostUnmapped a)

/-- An agent outside the engine loads a byte. A byte that a running command writes reads as an unspecified value
(rule R48, U7, U10). -/
def hostLoad (a : Word) (s : State) : Outcome :=
  if mapped s.platform a.toNat then .next (s.loadByte a.toNat) else .fault (.hostUnmapped a)

/-- One action of the host. WAIT stands here with BUSY = 0 and ends with the value of STATUS it read (rules R68, R173). -/
def hostStep (x : HostAction) (s : State) : Outcome :=
  match x with
  | .write r v => hostWrite r v s
  | .read r => .next (hostRead r s)
  | .store a b => hostStore a b s
  | .load a => hostLoad a s
  | .wait => .next (hostRead 2 s)
  | .hardReset => .next s.hardReset

/-! ### Turns -/

/-- The state with the host's queue of actions replaced. -/
def State.withInputs (s : State) (xs : List HostAction) : State := { s with inputs := xs }

/-- The state with the queue of held writes replaced. -/
def State.withHeld (s : State) (h : List (Nat × Word)) : State := { s with held := h }

/-- The engine's own move: in BUSY the latched command runs to its end (rules R54, R66); else it waits. -/
def engineStep (s : State) : Outcome :=
  match s.seq, s.latched with
  | .busy, some l => exec l.instr s
  | _, _ => .next s

/-- Whose turn it is. In BUSY the host goes first while it has anything to do but wait, then the engine moves. Outside BUSY
writes that were held come first, oldest first (rule R13), then the host's next action; with nothing to do the machine waits
(log entry 9). -/
def turn (s : State) : Outcome :=
  match s.seq with
  | .busy =>
    match s.inputs with
    | [] => engineStep s
    | .wait :: _ => engineStep s
    | x :: rest => hostStep x (s.withInputs rest)
  | _ =>
    match s.held with
    | (r, v) :: more => hostWrite r v (s.withHeld more)
    | [] =>
      match s.inputs with
      | [] => .next s
      | x :: rest => hostStep x (s.withInputs rest)

/-- The writes that are held, as actions of the host. -/
def heldActions (s : State) : List HostAction := s.held.map fun rv => .write rv.1 rv.2

/-- The state in which the host's next action writes `w` to CMD of an IDLE engine: a running command is dropped, a fault record
cleared, and held writes go behind the new one. -/
def State.placeCommand (s : State) (w : Word) : State :=
  { s with
    seq := .idle, vctx := false, latched := none, fcode := none, finfo := if s.seq = .fault then 0 else s.finfo,
    held := [], inputs := .write 3 w :: (heldActions s ++ s.inputs) }

end Sys2Proof.Machine
end

