-- ==== Sys2Proof/Machine/Step.lean ====
section
/-! DEFINITION. One step of the machine, and how a command word is placed for the next step to run. RZPE has no instruction
fetch (rules R11, R55): a command runs because the host writes it to CMD. -/

namespace Sys2Proof.Machine

/-- One step: one action of the host, one held write, or the engine's own move. -/
def step (s : State) : Host.Outcome State Fault Refusal := turn s

/-- The state with the command word `w` of an `nbits`-bit row as the host's next write to CMD (log entry 10). -/
def State.withFetchWord (s : State) (nbits w : Nat) : State := s.placeCommand (tableWord nbits w)

end Sys2Proof.Machine
end

