-- ==== Sys2Proof/Machine/Script.lean ====
section
/-! DEFINITION. Host programs: the line syntax of rule R68 and the pseudo-instructions of rule R69, as actions of the host. -/

namespace Sys2Proof.Machine

/-- The number of a register (rule R12), for the registers a line can name. -/
def Reg.number : Reg → Nat
  | .cap => 0
  | .ctrl => 1
  | .status => 2
  | .cmd => 3
  | .ncols => 4
  | .nparity => 5
  | .colshift => 6
  | .tgt0 => 7
  | .tgt1 => 8
  | .tgt2 => 9
  | .gfa => 10
  | .gfb => 11
  | .gfr => 12
  | .finfo => 13
  | .col c .dev => 256 + 8 * c
  | .col c .off => 256 + 8 * c + 1
  | .col c .len => 256 + 8 * c + 2
  | .col c .ptr => 256 + 8 * c + 3
  | .col c .flags => 256 + 8 * c + 4
  | .reserved => 14

/-- A line of a host program (rule R68). -/
inductive Line where
  | wr (r : Reg) (v : Word)
  | rd (r : Reg)
  | mem (a : Nat) (bytes : List Byte)
  | cmd (i : Instr)
  | wait
  | ack
  | srst
deriving DecidableEq, Repr

/-- What a line makes the host do (rule R68). -/
def Line.actions : Line → List HostAction
  | .wr r v => [.write r.number v]
  | .rd r => [.read r.number]
  | .mem a bytes => bytes.zipIdx.map fun bi => .store (BitVec.ofNat 64 (a + bi.2)) bi.1
  | .cmd i => [.write 3 (encode i)]
  | .wait => [.wait]
  | .ack => [.write 1 2]
  | .srst => [.write 1 1]

/-- A host program. -/
def script (lines : List Line) : List HostAction := lines.flatMap Line.actions

/-- The host's record of a map (rule R69). -/
structure MapRecord where
  parityCount : Nat
  columnShift : Nat
  columns     : List Column
deriving DecidableEq, Repr

/-- `LOADMAP` (rule R69). -/
def loadMap (m : MapRecord) : List Line :=
  [.wr .ncols (BitVec.ofNat 64 m.columns.length), .wr .nparity (BitVec.ofNat 64 m.parityCount),
    .wr .colshift (BitVec.ofNat 64 m.columnShift)]
  ++ m.columns.zipIdx.flatMap fun xc =>
    [.wr (.col xc.2 .dev) xc.1.dev, .wr (.col xc.2 .off) xc.1.off, .wr (.col xc.2 .len) xc.1.len,
      .wr (.col xc.2 .ptr) xc.1.ptr, .wr (.col xc.2 .flags) xc.1.flags]

/-- `generateParity(Map)` on backend `b` (rule R69). -/
def generateParity (m : MapRecord) (b : Nat) : List Line := loadMap m ++ [.cmd (.gen b), .wait]

/-- `reconstruct(Map, targets, k)` with valid mask `valid` on backend `b` (rule R69): STATUS[10:8] then is its result. -/
def reconstruct (m : MapRecord) (targets : List Word) (valid b : Nat) : List Line :=
  loadMap m ++ List.zipWith Line.wr [.tgt0, .tgt1, .tgt2] targets
    ++ [.cmd (.reconstruct b valid targets.length), .wait]

/-- `exp2(a, e)` (rule R69): the result is what `RD GFR` returns. -/
def exp2Call (a e : Word) : List Line := [.wr .gfa a, .wr .gfb e, .cmd .gfexp2, .wait, .rd .gfr]

/-- `gfmul(a, b)` (rule R69). -/
def gfmulCall (a b : Word) : List Line := [.wr .gfa a, .wr .gfb b, .cmd .gfmul, .wait, .rd .gfr]

/-- A backend's operation slot (rule R69): the direct command `i` on the given targets. -/
def operationSlot (m : MapRecord) (targets : List Word) (i : Instr) : List Line :=
  loadMap m ++ List.zipWith Line.wr [.tgt0, .tgt1, .tgt2] targets ++ [.cmd i, .wait]

end Sys2Proof.Machine
end

