-- ==== Sys2Proof/Machine/VectorBackends.lean ====
section
/-! DEFINITION. The lane operations of the wide-vector backends and kernels written in them (rules R150 to R159). They are
internal to an engine and have no encoding: no host action issues one. A map command's effect does not depend on its
backend (rule R150), so `exec` gives it once, in Reconstruction.lean and ParityGeneration.lean, and what stands here says
how a wide-vector backend reaches the same bytes (log entry 21). -/

namespace Sys2Proof.Machine

/-- The lane operations (rules R153 to R158). Registers are numbered from 0. -/
inductive LaneOp where
  /-- `V[r] <- [A]` (rule R153). -/
  | vload (r : Nat) (addr : Nat)
  /-- `V[r] <- V[r] xor V[s]` (rule R154). -/
  | vxor (r : Nat) (s : Nat)
  /-- `V[r] <- 2 (*) V[r]` (rule R155). -/
  | vmul2 (r : Nat)
  /-- `V[r] <- 4 (*) V[r]` (rule R156). -/
  | vmul4 (r : Nat)
  /-- `[A] <- V[r]` (rule R157). -/
  | vstore (r : Nat) (addr : Nat)
  /-- A hint without effect (rule R158). -/
  | vprefetch (addr : Nat)
deriving DecidableEq, Repr

/-- The vector registers that an operation names. -/
def LaneOp.regs : LaneOp → List Nat
  | .vload r _ => [r]
  | .vxor r s => [r, s]
  | .vmul2 r => [r]
  | .vmul4 r => [r]
  | .vstore r _ => [r]
  | .vprefetch _ => []

/-- Why a lane operation stops. -/
inductive LaneStop where
  /-- It names register `r`, which the file does not have: `r` is not below NVREG, or there is no wide-vector backend
  (rule R37). -/
  | noRegister (r : Nat)
  /-- BUS_ERROR: the lowest unmapped address that its batch touches (rules R43, R153, R157). -/
  | busError (addr : Nat)
deriving DecidableEq, Repr

/-- The lanes of register `r` of the engine. -/
def State.lanes (s : State) (r : Nat) : List Byte := s.vfile.getD r []

/-- The engine with the lanes of one register replaced. -/
def State.setLanes (s : State) (r : Nat) (l : List Byte) : State := { s with vfile := s.vfile.set r l }

/-- The addresses of one batch, lane `j` at `A + j` (rule R42). -/
def batch (s : State) (addr : Nat) : Segment := ⟨addr, vbytes s.platform⟩

/-- A lane operation on registers that the file has. -/
def laneEffect (op : LaneOp) (s : State) : Except LaneStop State :=
  match op with
  | .vload r a =>
    match unmappedIn s.platform [batch s a] with
    | bad :: _ => .error (.busError bad)
    | [] => .ok (s.setLanes r ((batch s a).addrs.map s.mem.read))
  | .vxor r t => .ok (s.setLanes r (List.zipWith (· ^^^ ·) (s.lanes r) (s.lanes t)))
  | .vmul2 r => .ok (s.setLanes r ((s.lanes r).map mul2))
  | .vmul4 r => .ok (s.setLanes r ((s.lanes r).map mul4))
  | .vstore r a =>
    match unmappedIn s.platform [batch s a] with
    | bad :: _ => .error (.busError bad)
    | [] => .ok { s with mem := s.mem.writeAll ((batch s a).addrs.zip (s.lanes r)) }
  | .vprefetch _ => .ok s

/-- One lane operation: it stops at the first register it names that the file does not have (rule R37). -/
def laneStep (op : LaneOp) (s : State) : Except LaneStop State :=
  match op.regs.find? fun r => decide (s.vfile.length ≤ r) with
  | some r => .error (.noRegister r)
  | none => laneEffect op s

/-- A sequence of lane operations, up to the first that stops. -/
def runLanes : List LaneOp → State → Except LaneStop State
  | [], s => .ok s
  | op :: rest, s =>
    match laneStep op s with
    | .error a => .error a
    | .ok t => runLanes rest t

/-- `V[dst] <- V[src]`, composed of VXOR: `r = s` clears a register (rule R154). -/
def copyOps (dst src : Nat) : List LaneOp := [.vxor dst dst, .vxor dst src]

/-- One bit of the constant multiplication: add the running double if the bit is 1, then double it (rule R156). -/
def mulBitOps (dst tmp : Nat) (c : Byte) (bit : Nat) : List LaneOp :=
  (if c.getLsbD bit then [.vxor dst tmp] else []) ++ [.vmul2 tmp]

/-- `V[dst] <- c (*) V[src]`, composed of VMUL2 and VXOR, with `tmp` as scratch (rule R156). -/
def mulConstOps (dst src tmp : Nat) (c : Byte) : List LaneOp :=
  copyOps tmp src ++ [.vxor dst dst] ++ (List.range 8).flatMap (mulBitOps dst tmp c)

/-! ### The kernel of rule R159: registers 0 = Vp, 1 = Vq, 2 = Vr, 3 = Vd -/

/-- The multipliers advance by one column. -/
def advanceOps : List LaneOp := [.vmul2 1, .vmul4 2]

/-- A column's bytes are added to the three accumulators. -/
def addColumnOps (addr : Nat) : List LaneOp := [.vload 3 addr, .vxor 0 3, .vxor 1 3, .vxor 2 3]

/-- One batch of GenPQR at offset `o` (rule R159). -/
def genBatchOps (m : RaidzMap) (o : Nat) : List LaneOp :=
  let others := if o < m.shortLen then m.n - 1 else m.n - 2
  [.vload 3 ((m.dataCol 0).ptr + o)] ++ copyOps 0 3 ++ copyOps 1 3 ++ copyOps 2 3
    ++ (List.range others).flatMap (fun i => advanceOps ++ addColumnOps ((m.dataCol (i + 1)).ptr + o))
    ++ (if o < m.shortLen then [] else advanceOps)
    ++ [.vstore 0 ((m.col 0).ptr + o), .vstore 1 ((m.col 1).ptr + o), .vstore 2 ((m.col 2).ptr + o)]

/-- The offsets of the batches: multiples of VBYTES below `L` (rule R152). -/
def batchOffsets (v : Nat) (m : RaidzMap) : List Nat := (List.range (m.commonLen / v)).map fun j => j * v

/-- GenPQR in lane operations (rule R159). -/
def genKernel (v : Nat) (m : RaidzMap) : List LaneOp := (batchOffsets v m).flatMap (genBatchOps m)

/-! ### Reconstruction in lane operations (last paragraph of rule R159), in the same four registers: 0, 1, 2 hold the
syndromes, 3 a column's bytes and then one target's solution -/

/-- The syndromes of one batch: the loop of rule R159 with the target columns skipped but their doubling kept, then the
stored parities that the kind uses (rule R124). -/
def syndromeOps (k : Kind) (m : RaidzMap) (targets : List Nat) (o : Nat) : List LaneOp :=
  let reached := if o < m.shortLen then m.n else m.n - 1
  [.vxor 0 0, .vxor 1 1, .vxor 2 2]
    ++ (List.range reached).flatMap (fun i => advanceOps ++
        if (dataTargets m targets).contains i then [] else addColumnOps ((m.dataCol i).ptr + o))
    ++ (if o < m.shortLen then [] else advanceOps)
    ++ k.parities.flatMap fun p => [.vload 3 ((m.col p).ptr + o), .vxor p 3]

/-- `V[dst]` becomes the sum of `c (*) V[s]` over the terms `(c, s)`: the multiplications of rule R156, bit 7 of the constants
first, so that the doublings are shared. -/
def sumOps (dst : Nat) (terms : List (Byte × Nat)) : List LaneOp :=
  [.vxor dst dst] ++ (List.range 8).reverse.flatMap fun bit =>
    [.vmul2 dst] ++ terms.flatMap fun cs => if cs.1.getLsbD bit then [.vxor dst cs.2] else []

/-- For each target, in target order, the constants that multiply the syndromes: the closed forms of rules R126 to R132 with
the multiplications carried out. The kinds without targets have none. -/
def solutionTerms (k : Kind) (n x y z : Nat) : List (List (Byte × Nat)) :=
  let qx := qCoef n x
  let qy := qCoef n y
  let qz := qCoef n z
  -- two unknowns with the coefficients 1, 1 and `a`, `b` (rules R129, R130)
  let two (a b : Byte) (s : Nat) : List (List (Byte × Nat)) :=
    let e := gfinv (a ^^^ b)
    [[(gfmul e b, 0), (e, s)], [(gfmul e a, 0), (e, s)]]
  -- two unknowns with the coefficients `a`, `b` and their squares: the first (rule R131)
  let square (a b : Byte) : List (Byte × Nat) :=
    let e := gfinv (gfmul a (a ^^^ b))
    [(gfmul e b, 1), (e, 2)]
  -- three unknowns: the first (rule R132)
  let three (a b c : Byte) : List (Byte × Nat) :=
    let e := gfinv (gfmul (a ^^^ b) (a ^^^ c))
    [(gfmul e (gfmul b c), 0), (gfmul e (b ^^^ c), 1), (e, 2)]
  match k with
  | .recP => [[(1, 0)]]
  | .recQ => [[(gfinv qx, 1)]]
  | .recR => [[(gfinv (rCoef n x), 2)]]
  | .recPQ => two qx qy 1
  | .recPR => two (rCoef n x) (rCoef n y) 2
  | .recQR => [square qx qy, square qy qx]
  | .recPQR => [three qx qy qz, three qy qx qz, three qz qx qy]
  | .genP => []
  | .genPQ => []
  | .genPQR => []
  | .gfExp2 => []
  | .gfMul => []

/-- One batch of a reconstruction: the syndromes, then for each target that the batch reaches its solution and its store
(rule R133). -/
def recBatchOps (k : Kind) (m : RaidzMap) (targets : List Nat) (o : Nat) : List LaneOp :=
  let terms := solutionTerms k m.n (dataTarget m targets 0) (dataTarget m targets 1) (dataTarget m targets 2)
  syndromeOps k m targets o ++ (targets.zip terms).flatMap fun tc =>
    if o < (m.col tc.1).len then sumOps 3 tc.2 ++ [.vstore 3 ((m.col tc.1).ptr + o)] else []

/-- A reconstruction kind in lane operations. -/
def recKernel (v : Nat) (k : Kind) (m : RaidzMap) (targets : List Nat) : List LaneOp :=
  (batchOffsets v m).flatMap (recBatchOps k m targets)

end Sys2Proof.Machine
end

