-- ==== Sys2Proof/Safety.lean ====
section
/-! DEFINITION. The terms claims use: when a map, a target list and a command are acceptable (rules R22 to R28, R44, R45, R49,
R121, R186), when a latch is, which states are consistent (rules R16, R36, R38), and how a run ends (rule R190). -/

namespace Sys2Proof

/-! ### Fields of commands -/

/-- BKND of a command; the GF commands have none (rule R61). -/
def Instr.backend : Instr → Nat
  | .gen bk => bk
  | .genp bk => bk
  | .genpq bk => bk
  | .genpqr bk => bk
  | .reconstruct bk _ _ => bk
  | .recp bk => bk
  | .recq bk => bk
  | .recr bk => bk
  | .recpq bk => bk
  | .recpr bk => bk
  | .recqr bk => bk
  | .recpqr bk => bk
  | .gfexp2 => 0
  | .gfmul => 0

/-- The same command on another backend. -/
def Instr.onBackend (b : Nat) : Instr → Instr
  | .gen _ => .gen b
  | .genp _ => .genp b
  | .genpq _ => .genpq b
  | .genpqr _ => .genpqr b
  | .reconstruct _ valid tcnt => .reconstruct b valid tcnt
  | .recp _ => .recp b
  | .recq _ => .recq b
  | .recr _ => .recr b
  | .recpq _ => .recpq b
  | .recpr _ => .recpr b
  | .recqr _ => .recqr b
  | .recpqr _ => .recpqr b
  | .gfexp2 => .gfexp2
  | .gfmul => .gfmul

/-- The commands of rule R61 that read the map and data memory. -/
def Instr.isMap : Instr → Bool
  | .gfexp2 => false
  | .gfmul => false
  | .gen _ => true
  | .genp _ => true
  | .genpq _ => true
  | .genpqr _ => true
  | .reconstruct _ _ _ => true
  | .recp _ => true
  | .recq _ => true
  | .recr _ => true
  | .recpq _ => true
  | .recpr _ => true
  | .recqr _ => true
  | .recpqr _ => true

end Sys2Proof

namespace Sys2Proof.Machine

/-! ### Maps and targets -/

/-- The map invariants that every map command checks (rules R22, R24, R25, R27, R28, R45). -/
structure ValidMap (m : RaidzMap) : Prop where
  /-- `np` is 1, 2 or 3 (rule R22). -/
  parityCount : 1 ≤ m.np ∧ m.np ≤ 3
  /-- There are 1 to 255 data columns (rule R27). -/
  columnCount : m.np + 1 ≤ m.ncols ∧ m.ncols ≤ m.np + 255
  /-- The column-shift is below 64 (rule R28). -/
  shiftBound : m.colshift < 64
  /-- Every parity column has the common length (rule R24). -/
  parityLen : ∀ c, c < m.np → (m.col c).len = m.commonLen
  /-- Every data column but the last has the common length (rule R25). -/
  bigLen : ∀ i, i + 1 < m.n → m.len i = m.commonLen
  /-- The last data column is no longer than that (rule R25). -/
  lastLen : m.shortLen ≤ m.commonLen
  /-- Every length is a multiple of `2^COLSHIFT` (rule R28). -/
  granular : ∀ c, c < m.ncols → 2 ^ m.colshift ∣ (m.col c).len
  /-- No column wraps the address space (rule R45). -/
  inRange : ∀ c, c < m.ncols → (m.col c).ptr + (m.col c).len ≤ 2 ^ 64

/-- `k` targets that rule R121 accepts: map indices of data columns, strictly increasing. -/
structure ValidTargets (k : Nat) (m : RaidzMap) (targets : List Nat) : Prop where
  count : targets.length = k ∧ 1 ≤ k ∧ k ≤ 3
  inData : ∀ t ∈ targets, m.np ≤ t ∧ t < m.ncols
  ascending : targets.Pairwise (· < ·)

/-- No written column shares a byte with another involved column (rule R49). -/
def NoOverlap (k : Kind) (m : RaidzMap) (targets : List Nat) : Prop :=
  ∀ w ∈ writtenCols k targets, ∀ c ∈ involvedCols k m targets, c ≠ w →
    ∀ a, ¬((m.col w).contains a = true ∧ (m.col c).contains a = true)

/-- PTR and LEN of every involved column, an empty one too (log entry 25), are multiples of VBYTES (rule R44). -/
def AlignedTo (v : Nat) (k : Kind) (m : RaidzMap) (targets : List Nat) : Prop :=
  ∀ c ∈ involvedCols k m targets, v ∣ (m.col c).ptr ∧ v ∣ (m.col c).len

/-- Every byte the kind may read or must write is backed by memory (rules R43, R47). -/
def AllMapped (p : Platform) (k : Kind) (m : RaidzMap) (targets : List Nat) : Prop :=
  ∀ g ∈ writeSpans k m targets ++ readSpans k m targets, ∀ a, g.contains a = true → mapped p a = true

/-- The kind has the parity columns it names, and, if it reconstructs, acceptable targets; no overlap. -/
structure ValidJob (k : Kind) (m : RaidzMap) (targets : List Nat) : Prop where
  validMap : ValidMap m
  parities : ∀ p ∈ k.parities, p < m.np
  genTargets : k.isGen = true → targets = []
  recTargets : k.isGen = false → ValidTargets k.targetCount m targets
  noOverlap : NoOverlap k m targets

/-! ### Commands -/

/-- The kind that a map command runs on a map with `np` parity columns, if it runs one (rules R103, R109, R120, R123, R137). -/
def kindFor (i : Instr) (np : Nat) : Option Kind :=
  match i with
  | .gen _ => if np = 1 then some .genP else if np = 2 then some .genPQ else some .genPQR
  | .genp _ => some .genP
  | .genpq _ => if 2 ≤ np then some .genPQ else none
  | .genpqr _ => if 3 ≤ np then some .genPQR else none
  | .reconstruct _ valid tcnt => if valid < 2 ^ np then lookupKind valid tcnt else none
  | .recp _ => some .recP
  | .recq _ => if 2 ≤ np then some .recQ else none
  | .recr _ => if 3 ≤ np then some .recR else none
  | .recpq _ => if 2 ≤ np then some .recPQ else none
  | .recpr _ => if 3 ≤ np then some .recPR else none
  | .recqr _ => if 3 ≤ np then some .recQR else none
  | .recpqr _ => if 3 ≤ np then some .recPQR else none
  | .gfexp2 => none
  | .gfmul => none

/-- The bytes that a kind writes, computed from the memory before its data pass (rules R104 to R106, R126 to R132). -/
def jobCells (k : Kind) (m : RaidzMap) (targets : List Nat) (mem : Memory) : List Host.Cell :=
  if k.isGen then genCells k m mem else recCells k m targets mem

/-- The state passes all checks of rule R186 for the map command `i`, which then runs kind `k`. -/
structure Acceptable (i : Instr) (k : Kind) (s : State) : Prop where
  idle : s.seq = .idle
  backend : backendSupported s.platform i.backend = true
  kind : kindFor i s.mapOf.np = some k
  job : ValidJob k s.mapOf (s.targets k.targetCount)
  aligned : i.backend ≠ 0 → AlignedTo (vbytes s.platform) k s.mapOf (s.targets k.targetCount)

/-! ### Consistent states -/

/-- A latch that an issue can have made (rule R62): of a GF command or of a map command whose checks passed. -/
structure ValidLatch (l : Latch) : Prop where
  backend : l.bk = l.instr.backend
  gf : l.instr.isMap = false →
    l.gfa.toNat < 256 ∧ l.gfb.toNat < 256 ∧
      ((l.instr = .gfexp2 ∧ l.kind = .gfExp2) ∨ (l.instr = .gfmul ∧ l.kind = .gfMul))
  map : l.instr.isMap = true → kindFor l.instr l.map.np = some l.kind ∧ ValidJob l.kind l.map l.targets

/-- The vector register file has NVREG registers of VBYTES bytes, and none without a wide-vector backend (rule R37). -/
structure FileShape (s : State) : Prop where
  count : s.vfile.length = numVregs s.platform
  width : ∀ l ∈ s.vfile, l.length = vbytes s.platform

/-- What rules R16, R36, R37, R38 and R151 say of the status registers and the latch of an engine, and of its vector file, in every
state. -/
structure Consistent (s : State) : Prop where
  /-- A command is latched exactly while BUSY (rule R38). -/
  latchedIffBusy : s.seq = .busy ↔ s.latched.isSome = true
  /-- DONE = 1 implies BUSY = 0 and FAULT = 0 (rule R16). -/
  doneIdle : s.done = true → s.seq = .idle
  /-- VCTX = 1 exactly while a command on another backend than 0 is BUSY (rule R151). -/
  vctxBusy : s.vctx = true ↔ ∃ l, s.latched = some l ∧ l.bk ≠ 0
  /-- FCODE is 0 when FAULT = 0 (rule R16), and not 0 when FAULT = 1. -/
  fcodeFault : s.seq = .fault ↔ s.fcode.isSome = true
  /-- FINFO is 0 but for a fault (rule R36). -/
  finfoFault : s.seq ≠ .fault → s.finfo = 0
  /-- USED goes with KIND (rule R16). -/
  usedKind : s.used = kindUsed s.kind
  /-- GFR is a byte zero-extended (rule R35). -/
  gfrByte : s.gfr.toNat < 256
  /-- KIND is that of the command that runs (rules R16, R62). -/
  kindLatched : ∀ l, s.latched = some l → s.kind = some l.kind
  /-- What is latched passed the issue checks (rule R62). -/
  latchValid : ∀ l, s.latched = some l → ValidLatch l
  /-- The vector file has its registers and lanes (rule R37). -/
  vectorFile : FileShape s

/-! ### Frames -/

/-- No register that the host can write and no parameter differs (rules R12, R15). -/
structure SameDescriptor (s t : State) : Prop where
  platform : t.platform = s.platform
  ncols : t.ncols = s.ncols
  nparity : t.nparity = s.nparity
  colshift : t.colshift = s.colshift
  tgt0 : t.tgt0 = s.tgt0
  tgt1 : t.tgt1 = s.tgt1
  tgt2 : t.tgt2 = s.tgt2
  gfa : t.gfa = s.gfa
  gfb : t.gfb = s.gfb
  cols : t.cols = s.cols

/-- Nothing on the host's side of the bus differs. -/
structure SameHostSide (s t : State) : Prop where
  held : t.held = s.held
  inputs : t.inputs = s.inputs
  rdata : t.rdata = s.rdata

/-- `t` is `s` after acceptance of a command of kind `k` on backend `bk` (rule R62): BUSY, DONE cleared, KIND, USED and VCTX
set; no other register and no byte of memory changed. -/
structure Accepted (k : Kind) (bk : Nat) (s t : State) : Prop where
  busy : t.seq = .busy
  done : t.done = false
  kind : t.kind = some k
  used : t.used = k.usedMask
  vctx : t.vctx = decide (bk ≠ 0)
  fcode : t.fcode = s.fcode
  finfo : t.finfo = s.finfo
  gfr : t.gfr = s.gfr
  mem : t.mem = s.mem
  descriptor : SameDescriptor s t
  hostSide : SameHostSide s t

/-- `t` is `s` after a command of kind `k` ran to its end (rules R62, R66), the result register and data memory apart:
IDLE, DONE set, VCTX released, KIND and USED those of the kind; no other register changed. -/
structure Completed (k : Kind) (s t : State) : Prop where
  idle : t.seq = .idle
  done : t.done = true
  kind : t.kind = some k
  used : t.used = k.usedMask
  vctx : t.vctx = false
  latched : t.latched = none
  fcode : t.fcode = s.fcode
  finfo : t.finfo = s.finfo
  descriptor : SameDescriptor s t
  hostSide : SameHostSide s t

/-- Every byte outside the given ranges reads as before. -/
def SameOutside (spans : List Segment) (m₁ m₂ : Memory) : Prop :=
  ∀ a, (∀ g ∈ spans, g.contains a = false) → m₂.read a = m₁.read a

/-- The four generation commands on a backend (rules R103 to R106). -/
def genFamily (bk : Nat) : List Instr := [.gen bk, .genp bk, .genpq bk, .genpqr bk]

/-- The eight reconstruction commands on a backend (rules R123, R126 to R132). -/
def recFamily (bk valid tcnt : Nat) : List Instr :=
  [.reconstruct bk valid tcnt, .recp bk, .recq bk, .recr bk, .recpq bk, .recpr bk, .recqr bk, .recpqr bk]

/-! ### What a reconstruction solves (rules R126 to R134) -/

/-- The solution bytes at one offset, in target order, by the closed form of the kind's rule (R126 to R132). -/
def recSolution (k : Kind) (m : RaidzMap) (targets : List Nat) (mem : Memory) (o : Nat) : List Byte :=
  let x := dataTarget m targets 0
  let y := dataTarget m targets 1
  let z := dataTarget m targets 2
  let ps := syndromeP m targets mem o
  let qs := syndromeQ m targets mem o
  let rs := syndromeR m targets mem o
  match k with
  | .recP => [ps]
  | .recQ => [exp2 qs (255 - (m.n - 1 - x))]
  | .recR => [exp2 rs (255 - 2 * (m.n - 1 - x) % 255)]
  | .recPQ => solvePQ m.n x y ps qs
  | .recPR => solvePR m.n x y ps rs
  | .recQR => solveQR m.n x y qs rs
  | .recPQR => solvePQR m.n x y z ps qs rs
  | .genP => []
  | .genPQ => []
  | .genPQR => []
  | .gfExp2 => []
  | .gfMul => []

/-- The bytes `xs`, one per target, satisfy the equation of each parity in `U` at offset `o` (rule R134). -/
def SolvesSystem (k : Kind) (m : RaidzMap) (targets : List Nat) (mem : Memory) (o : Nat) (xs : List Byte) : Prop :=
  let index := List.range targets.length
  let unknown := fun j => xs.getD j 0
  (0 ∈ k.parities → xorOver unknown index = syndromeP m targets mem o) ∧
  (1 ∈ k.parities →
    xorOver (fun j => gfmul (qCoef m.n (dataTarget m targets j)) (unknown j)) index = syndromeQ m targets mem o) ∧
  (2 ∈ k.parities →
    xorOver (fun j => gfmul (rCoef m.n (dataTarget m targets j)) (unknown j)) index = syndromeR m targets mem o)

/-- The parity columns that the kind uses hold, for the data in `mem`, what rule R101 gives. -/
def ParityConsistent (k : Kind) (m : RaidzMap) (mem : Memory) : Prop :=
  ∀ p ∈ k.parities, ∀ o, o < m.commonLen → parByte m mem p o = parityValue p m mem o

/-! ### How a run ends (rule R190) -/

/-- The last command ended well: IDLE with DONE = 1. -/
def Finished (s : State) : Prop := s.seq = .idle ∧ s.done = true

/-- The run failed: the sticky FAULT state. -/
def Failed (s : State) : Prop := s.seq = .fault

end Sys2Proof.Machine
end

