-- ==== Sys2Proof/Certificates/Slice0/Obligations.lean ====
section
/-! DEFINITION. The statements about the model, for the provers. Each docstring says which rules of the spec it formalises.
Every statement about a state holds for every platform and every free value. -/

open Sys2Proof Sys2Proof.Machine

/-! ### Encoding (30_encoding.md) -/

/-- Every well-formed command, with every operand at every value its field admits, is what its own word decodes to
(rules R60, R61). -/
def Obligations.DecodeInvertsEncode : Prop :=
  ∀ i : Instr, i.wellFormed = true → decode (encode i) = .ok i

/-- A word has at most one meaning: what decodes to a command is that command's word, with every field in its range. -/
def Obligations.EncodeInvertsDecode : Prop :=
  ∀ (w : Word) (i : Instr), decode w = .ok i → encode i = w ∧ i.wellFormed = true

/-- Some words of 95_test_vectors.md section 2.7, written out there from rule R68, decode to the commands they stand for. -/
def Obligations.PublishedWordsDecode : Prop :=
  decode 0x11 = .ok (.gen 1) ∧ decode 0x33 = .ok (.genpq 3) ∧ decode 0x2615 = .ok (.reconstruct 1 6 2) ∧
    decode 0xFC = .ok (.recpqr 15) ∧ decode 0xD = .ok .gfexp2 ∧ decode 0xE = .ok .gfmul ∧
    decode 0x2E15 = .error .reservedBits

/-- Rule R65: which values are illegal commands; writing one raises ILLEGAL_CMD with FINFO = the value; a REC with TCNT = 0 is
a legal encoding that faults later with BAD_TARGET; 0 is illegal; a value that is not illegal is a command. -/
def Obligations.IllegalCommands : Prop :=
  (∀ w : Word, (∃ e, decode w = .error e) ↔
    (bitField w 0 4 = 0 ∨ bitField w 0 4 = 15 ∨ bitField w 14 50 ≠ 0 ∨ bitField w 11 1 ≠ 0 ∨
      (bitField w 0 4 ≠ 5 ∧ (bitField w 8 3 ≠ 0 ∨ bitField w 12 2 ≠ 0)) ∨
      ((bitField w 0 4 = 13 ∨ bitField w 0 4 = 14) ∧ bitField w 4 4 ≠ 0))) ∧
  (∀ (w : Word) (s : State) (rest : List HostAction), (∃ e, decode w = .error e) → s.seq = .idle → s.held = [] →
    s.inputs = .write 3 w :: rest →
    ∃ t, step s = .next t ∧ t.seq = .fault ∧ t.fcode = some .illegalCmd ∧ t.finfo = w) ∧
  (∀ bk valid : Nat, bk < 16 → valid < 8 →
    decode (encode (.reconstruct bk valid 0)) = .ok (.reconstruct bk valid 0) ∧
    ∀ s : State, s.seq = .idle → backendSupported s.platform bk = true → ValidMap s.mapOf →
      ∃ t, exec (.reconstruct bk valid 0) s = .next t ∧ t.seq = .fault ∧ t.fcode = some .badTarget ∧ t.finfo = 3) ∧
  (∃ e, decode 0 = .error e)

/-! ### GF(2^8) (10_state.md section 4, 40_gf_arithmetic.md) -/

/-- Rule R32, the table invariant; and `LOG2[a]` is the only exponent in 0..254 of which that holds (rule R31). -/
def Obligations.TableInvariant : Prop :=
  ∀ a : Byte, a ≠ 0 → pow2 (log2 a) = a ∧ log2 a ≤ 254 ∧ ∀ e, e ≤ 254 → pow2 e = a → e = log2 a

/-- Rule R33: `POW2[0..254]` is a permutation of 1..255; the table has period 255; no entry is 0; `exp2` never reads entry 510. -/
def Obligations.TableProperties : Prop :=
  (∀ a : Byte, a ≠ 0 → ∃ e, (e < 255 ∧ pow2 e = a) ∧ ∀ e', e' < 255 ∧ pow2 e' = a → e' = e) ∧
  (∀ e, e ≤ 510 → pow2 e = pow2 (e % 255)) ∧ pow2 255 = 1 ∧ pow2 510 = 1 ∧
  (∀ e, e ≤ 510 → pow2 e ≠ 0) ∧
  (∀ (a : Byte) (e : Nat), a ≠ 0 → e ≤ 255 → e + log2 a ≤ 509)

/-- Rule R92: the product through the tables is polynomial multiplication modulo x^8 + x^4 + x^3 + x^2 + 1. -/
def Obligations.ProductIsPolynomialProduct : Prop := ∀ a b : Byte, gfmul a b = polyMul a b

/-- Rule R85: bytes with xor and `(*)` are a field of 256 elements, whose multiplicative group 2 generates. -/
def Obligations.FieldAxioms : Prop :=
  (∀ a b : Byte, gfmul a b = gfmul b a) ∧
  (∀ a b c : Byte, gfmul (gfmul a b) c = gfmul a (gfmul b c)) ∧
  (∀ a b c : Byte, gfmul a (b ^^^ c) = gfmul a b ^^^ gfmul a c) ∧
  (∀ a : Byte, gfmul 1 a = a ∧ gfmul 0 a = 0 ∧ a ^^^ 0 = a ∧ a ^^^ a = 0) ∧
  (∀ a : Byte, a ≠ 0 → ∃ b, gfmul a b = 1 ∧ ∀ c, gfmul a c = 1 → c = b) ∧
  (∀ a : Byte, a ≠ 0 → ∃ e, (e < 255 ∧ twoPow e = a) ∧ ∀ e', e' < 255 ∧ twoPow e' = a → e' = e)

/-- Rule R89: the field involution and the laws of `exp2`, `gfmul`, `mul2` and `gfinv`. -/
def Obligations.FieldLaws : Prop :=
  (∀ (a : Byte) (e : Nat), a ≠ 0 → e ≤ 255 → exp2 (exp2 a e) ((255 - e) % 255) = a) ∧
  (∀ e, e ≤ 255 → exp2 0 e = 0) ∧
  (∀ a : Byte, exp2 a 0 = a ∧ exp2 a 255 = a) ∧
  (∀ (a : Byte) (e f : Nat), e ≤ 255 → f ≤ 255 → exp2 (exp2 a e) f = exp2 a ((e + f) % 255)) ∧
  (∀ a : Byte, gfmul a 1 = a ∧ gfmul a 2 = mul2 a) ∧
  (∀ a : Byte, a ≠ 0 → gfmul a (gfinv a) = 1)

/-- Rule R90: the coefficients of the data columns in Q and R: their values, the last one 1, pairwise distinct and nonzero for
`n ≤ 255`, those of R the squares of those of Q, the same on either index basis; and 1 in P. -/
def Obligations.ColumnCoefficients : Prop :=
  ∀ n, 1 ≤ n → n ≤ 255 →
    (∀ i, i < n → qCoef n i = pow2 (n - 1 - i) ∧ rCoef n i = pow2 (2 * (n - 1 - i) % 255)) ∧
    qCoef n (n - 1) = 1 ∧ rCoef n (n - 1) = 1 ∧
    (∀ i j, i < n → j < n → i ≠ j → qCoef n i ≠ qCoef n j ∧ rCoef n i ≠ rCoef n j) ∧
    (∀ i, i < n → qCoef n i ≠ 0 ∧ rCoef n i ≠ 0 ∧ rCoef n i = gfmul (qCoef n i) (qCoef n i)) ∧
    (∀ np i, i < n → qCoef n i = twoPow ((np + n) - 1 - (np + i))) ∧
    (∀ (m : RaidzMap) (mem : Memory) (o : Nat), m.n = n →
      parityP m mem o = xorOver (fun i => gfmul 1 (paddedByte m mem i o)) (List.range n))

/-! ### The GF commands (40_gf_arithmetic.md section 3) -/

/-- Rule R80: GFEXP2. Its one word; BAD_OPERAND at issue with GFR unchanged; else `GFR = exp2(GFA, GFB)` zero-extended, with no
access to memory and every other register unchanged; the corner cases. -/
def Obligations.Gfexp2Command : Prop :=
  (∀ w : Word, bitField w 0 4 = 13 → (decode w = .ok .gfexp2 ∧ w = 0xD) ∨ (w ≠ 0xD ∧ ∃ e, decode w = .error e)) ∧
  (∀ s : State, s.seq = .idle → (255 < s.gfa.toNat ∨ 255 < s.gfb.toNat) →
    ∃ t, exec .gfexp2 s = .next t ∧ t.seq = .fault ∧ t.fcode = some .badOperand ∧
      t.finfo = (if 255 < s.gfa.toNat then 0 else 1) ∧ t.gfr = s.gfr ∧ t.mem = s.mem) ∧
  (∀ s : State, s.seq = .idle → s.gfa.toNat ≤ 255 → s.gfb.toNat ≤ 255 →
    ∃ s₁ s₂, exec .gfexp2 s = .next s₁ ∧ Accepted .gfExp2 0 s s₁ ∧ exec .gfexp2 s₁ = .next s₂ ∧
      Completed .gfExp2 s s₂ ∧ s₂.gfr = (exp2 (s.gfa.setWidth 8) s.gfb.toNat).setWidth 64 ∧ s₂.mem = s.mem) ∧
  (∀ e, e ≤ 255 → exp2 0 e = 0) ∧ (∀ a, exp2 a 0 = a ∧ exp2 a 255 = a) ∧ 255 + log2 0x8E = 509 ∧
    exp2 0x8E 255 = 0x8E ∧ exp2 0x80 1 = 0x1D

/-- Rule R84: GFMUL, likewise, with `GFR = GFA (*) GFB`. -/
def Obligations.GfmulCommand : Prop :=
  (∀ w : Word, bitField w 0 4 = 14 → (decode w = .ok .gfmul ∧ w = 0xE) ∨ (w ≠ 0xE ∧ ∃ e, decode w = .error e)) ∧
  (∀ s : State, s.seq = .idle → (255 < s.gfa.toNat ∨ 255 < s.gfb.toNat) →
    ∃ t, exec .gfmul s = .next t ∧ t.seq = .fault ∧ t.fcode = some .badOperand ∧
      t.finfo = (if 255 < s.gfa.toNat then 0 else 1) ∧ t.gfr = s.gfr ∧ t.mem = s.mem) ∧
  (∀ s : State, s.seq = .idle → s.gfa.toNat ≤ 255 → s.gfb.toNat ≤ 255 →
    ∃ s₁ s₂, exec .gfmul s = .next s₁ ∧ Accepted .gfMul 0 s s₁ ∧ exec .gfmul s₁ = .next s₂ ∧
      Completed .gfMul s s₂ ∧ s₂.gfr = (gfmul (s.gfa.setWidth 8) (s.gfb.setWidth 8)).setWidth 64 ∧ s₂.mem = s.mem) ∧
  (∀ a, gfmul a 0 = 0 ∧ gfmul 0 a = 0 ∧ gfmul a 1 = a) ∧ (∀ a b, gfmul a b = gfmul b a) ∧
    log2 0x8E + log2 0x8E = 508 ∧ gfmul 0x8E 0x8E = 0x47 ∧ gfmul 0x53 0xCA = 0x8F

/-! ### Issue: which commands are accepted, and every fault (60_exceptions.md) -/

/-- Rules R62 and R186 for the twelve map commands: a command is accepted exactly when it passes every check; acceptance latches
its kind, its backend and the registers. (That "the map registers" of R62 are the whole column table is the model's choice:
log entry 22; that the alignment check counts empty columns too: log entry 25.) -/
def Obligations.AcceptedExactlyWhenAcceptable : Prop :=
  ∀ (i : Instr) (s : State), i.isMap = true → s.seq = .idle →
    (∀ k, Acceptable i k s →
      ∃ t, exec i s = .next t ∧ Accepted k i.backend s t ∧
        t.latched = some ⟨i, k, i.backend, s.descriptor, s.gfa, s.gfb, false⟩) ∧
    (∀ t, exec i s = .next t → t.seq = .busy → ∃ k, Acceptable i k s)

/-- Rule R187: a fault at issue, of any CMD write in IDLE: the fault record, DONE, KIND and USED cleared, nothing else changed. -/
def Obligations.IssueFaultChangesOnlyTheRecord : Prop :=
  ∀ (s t : State) (w : Word) (rest : List HostAction), Consistent s → s.seq = .idle → s.held = [] →
    s.inputs = .write 3 w :: rest → step s = .next t → t.seq = .fault →
    (∃ c, t.fcode = some c) ∧ t.done = false ∧ t.kind = none ∧ t.used = 0 ∧ t.vctx = false ∧ t.latched = none ∧
      SameDescriptor s t ∧ t.gfr = s.gfr ∧ t.mem = s.mem ∧ t.vfile = s.vfile ∧ t.held = [] ∧ t.inputs = rest ∧
      t.rdata = s.rdata

/-- BAD_BACKEND: a map command on a backend that CAP does not list faults, before any other check of it (rules R63, R181,
R186). -/
def Obligations.UnsupportedBackendFaults : Prop :=
  ∀ (i : Instr) (s : State), i.isMap = true → s.seq = .idle → backendSupported s.platform i.backend = false →
    ∃ t, exec i s = .next t ∧ t.seq = .fault ∧ t.fcode = some .badBackend ∧ t.finfo = BitVec.ofNat 64 i.backend

/-- Rule R182: the whole 64-bit NPARITY must be 1, 2 or 3, for every map command, before any other look at the map. -/
def Obligations.BadParityCountFaults : Prop :=
  ∀ (i : Instr) (s : State), i.isMap = true → s.seq = .idle → backendSupported s.platform i.backend = true →
    s.nparity ≠ 1 → s.nparity ≠ 2 → s.nparity ≠ 3 →
    ∃ t, exec i s = .next t ∧ t.seq = .fault ∧ t.fcode = some .badParityCount ∧ t.finfo = s.nparity

/-- MAP_INVALID, in the order of rule R183: sub 1 the column count, sub 2 the column-shift, then the first column that fails and
for it the first of sub 3, 4, 5; FINFO is `sub << 16 | c`. -/
def Obligations.MapInvalidReportsFirstDefect : Prop :=
  ∀ (i : Instr) (s : State), i.isMap = true → s.seq = .idle → backendSupported s.platform i.backend = true →
    1 ≤ s.nparity.toNat → s.nparity.toNat ≤ 3 →
    let m := s.mapOf
    let sub3 := fun c => c < m.np ∧ (m.col c).len ≠ m.commonLen
    let sub4 := fun c => m.np ≤ c ∧
      ((c < m.ncols - 1 ∧ (m.col c).len ≠ m.commonLen) ∨ (c = m.ncols - 1 ∧ (m.col c).len > m.commonLen))
    let sub5 := fun c => (m.col c).len % 2 ^ m.colshift ≠ 0
    let faults := fun info =>
      ∃ t, exec i s = .next t ∧ t.seq = .fault ∧ t.fcode = some .mapInvalid ∧ t.finfo = BitVec.ofNat 64 info
    ((m.ncols < m.np + 1 ∨ m.ncols > m.np + 255) → faults (1 * 2 ^ 16)) ∧
    (m.np + 1 ≤ m.ncols → m.ncols ≤ m.np + 255 → m.colshift ≥ 64 → faults (2 * 2 ^ 16)) ∧
    (m.np + 1 ≤ m.ncols → m.ncols ≤ m.np + 255 → m.colshift < 64 →
      ∀ c, c < m.ncols → (∀ c', c' < c → ¬sub3 c' ∧ ¬sub4 c' ∧ ¬sub5 c') →
        (sub3 c → faults (3 * 2 ^ 16 + c)) ∧ (¬sub3 c → sub4 c → faults (4 * 2 ^ 16 + c)) ∧
        (¬sub3 c → ¬sub4 c → sub5 c → faults (5 * 2 ^ 16 + c)))

/-- Rule R45: a column that wraps the address space is ADDR_RANGE, with the lowest such map index. -/
def Obligations.WrappingColumnFaults : Prop :=
  ∀ (i : Instr) (s : State) (c : Nat), i.isMap = true → s.seq = .idle → backendSupported s.platform i.backend = true →
    checkParityCount s = none → checkMap s = none → c < s.mapOf.ncols →
    (s.mapOf.col c).ptr + (s.mapOf.col c).len > 2 ^ 64 →
    (∀ c', c' < c → (s.mapOf.col c').ptr + (s.mapOf.col c').len ≤ 2 ^ 64) →
    ∃ t, exec i s = .next t ∧ t.seq = .fault ∧ t.fcode = some .addrRange ∧ t.finfo = BitVec.ofNat 64 c

/-- KIND_UNSUPPORTED: a direct kind that names a parity column the map lacks, with the KIND code (rules R109, R137, R181). -/
def Obligations.MissingParityFaults : Prop :=
  ∀ (bk : Nat) (i : Instr) (code need : Nat) (s : State),
    (i, code, need) ∈ [(.genpq bk, 3, 2), (.genpqr bk, 4, 3), (.recq bk, 7, 2), (.recr bk, 8, 3), (.recpq bk, 9, 2),
      (.recpr bk, 10, 3), (.recqr bk, 11, 3), ((.recpqr bk, 12, 3) : Instr × Nat × Nat)] →
    s.seq = .idle → backendSupported s.platform bk = true → ValidMap s.mapOf → s.mapOf.np < need →
    ∃ t, exec i s = .next t ∧ t.seq = .fault ∧ t.fcode = some .kindUnsupported ∧ t.finfo = BitVec.ofNat 64 code

/-- Rule R121: the first target register that is out of range or not greater than its predecessor is BAD_TARGET, for REC with
TCNT in {1, 2, 3} and for every direct reconstruction kind whose parities the map has; TCNT = 0 is BAD_TARGET with 3. -/
def Obligations.BadTargetReportsFirstRegister : Prop :=
  ∀ (bk valid tcnt : Nat) (i : Instr) (k : Nat) (s : State),
    (i, k) ∈ [(.reconstruct bk valid tcnt, tcnt), (.recp bk, 1), (.recq bk, 1), (.recr bk, 1), (.recpq bk, 2),
      (.recpr bk, 2), (.recqr bk, 2), ((.recpqr bk, 3) : Instr × Nat)] → tcnt < 4 →
    (i ≠ .reconstruct bk valid tcnt → (kindFor i s.mapOf.np).isSome = true) →
    s.seq = .idle → backendSupported s.platform bk = true → ValidMap s.mapOf →
    let tgt := fun j => s.targetRegs.getD j 0
    let good := fun j => s.mapOf.np ≤ tgt j ∧ tgt j < s.mapOf.ncols ∧ (0 < j → tgt (j - 1) < tgt j)
    let faults := fun info =>
      ∃ t, exec i s = .next t ∧ t.seq = .fault ∧ t.fcode = some .badTarget ∧ t.finfo = BitVec.ofNat 64 info
    (k = 0 → faults 3) ∧ (∀ j, j < k → ¬good j → (∀ j', j' < j → good j') → faults j)

/-- The lookup of REC (rule R123): in every cell of its table that names a kind, a REC that passes the other checks is accepted
with that kind, shown in KIND, and with the parities of that kind in USED (rule R122). -/
def Obligations.RecSelectsByTable : Prop :=
  ∀ (bk valid tcnt : Nat) (k : Kind) (used : BitVec 3) (s : State),
    (valid, tcnt, k, used) ∈ [(1, 1, .recP, 0b001), (2, 1, .recQ, 0b010), (3, 1, .recP, 0b001), (3, 2, .recPQ, 0b011),
      (4, 1, .recR, 0b100), (5, 1, .recP, 0b001), (5, 2, .recPR, 0b101), (6, 1, .recQ, 0b010), (6, 2, .recQR, 0b110),
      (7, 1, .recP, 0b001), (7, 2, .recPQ, 0b011), ((7, 3, .recPQR, 0b111) : Nat × Nat × Kind × BitVec 3)] →
    s.seq = .idle → backendSupported s.platform bk = true → ValidMap s.mapOf →
    ValidTargets tcnt s.mapOf (s.targets tcnt) → valid < 2 ^ s.mapOf.np → NoOverlap k s.mapOf (s.targets tcnt) →
    (bk ≠ 0 → AlignedTo (vbytes s.platform) k s.mapOf (s.targets tcnt)) →
    ∃ t, exec (.reconstruct bk valid tcnt) s = .next t ∧ t.seq = .busy ∧ t.kind = some k ∧ t.used = used

/-- NO_ROUTINE: a REC with acceptable targets whose mask names a parity the map lacks, or whose cell (VALID, TCNT) of the table
of rule R123 is one of the twelve empty ones, faults with `VALID << 8 | TCNT` (rules R123, R181). -/
def Obligations.NoRoutineFaults : Prop :=
  ∀ (bk valid tcnt : Nat) (s : State), s.seq = .idle → backendSupported s.platform bk = true → ValidMap s.mapOf →
    ValidTargets tcnt s.mapOf (s.targets tcnt) → 
    (2 ^ s.mapOf.np ≤ valid ∨
      (valid, tcnt) ∈ [(0, 1), (0, 2), (0, 3), (1, 2), (1, 3), (2, 2), (2, 3), (3, 3), (4, 2), (4, 3), (5, 3),
        ((6, 3) : Nat × Nat)]) →
    ∃ t, exec (.reconstruct bk valid tcnt) s = .next t ∧ t.seq = .fault ∧ t.fcode = some .noRoutine ∧
      t.finfo = BitVec.ofNat 64 (valid * 2 ^ 8 + tcnt)

/-- OVERLAP: a written column that shares a byte with another involved column, for a command that passes every earlier check,
with the lexicographically least such pair (rules R49, R181). -/
def Obligations.OverlapReportsLeastPair : Prop :=
  ∀ (i : Instr) (k : Kind) (s : State) (w c : Nat), i.isMap = true → s.seq = .idle →
    backendSupported s.platform i.backend = true → ValidMap s.mapOf → kindFor i s.mapOf.np = some k →
    (k.isGen = false → ValidTargets k.targetCount s.mapOf (s.targets k.targetCount)) →
    let m := s.mapOf
    let written := writtenCols k (s.targets k.targetCount)
    let involved := involvedCols k m (s.targets k.targetCount)
    let share := fun x y => ∃ a, (m.col x).contains a = true ∧ (m.col y).contains a = true
    w ∈ written → c ∈ involved → c ≠ w → share w c →
    (∀ w' ∈ written, ∀ c' ∈ involved, c' ≠ w' → share w' c' → w < w' ∨ (w = w' ∧ c ≤ c')) →
    ∃ t, exec i s = .next t ∧ t.seq = .fault ∧ t.fcode = some .overlap ∧ t.finfo = BitVec.ofNat 64 (w * 2 ^ 16 + c)

/-- Columns that are only read may overlap (rule R49): a command that passes every earlier check and none of whose written
columns shares a byte with another involved one is accepted, or is UNALIGNED on another backend than 0. -/
def Obligations.ReadColumnsMayOverlap : Prop :=
  ∀ (i : Instr) (k : Kind) (s t : State), i.isMap = true → s.seq = .idle →
    backendSupported s.platform i.backend = true → kindFor i s.mapOf.np = some k →
    ValidJob k s.mapOf (s.targets k.targetCount) → exec i s = .next t →
    t.seq = .busy ∨ (i.backend ≠ 0 ∧ t.seq = .fault ∧ t.fcode = some .unaligned)

/-- Rule R44: the scalar backend needs no alignment; on another backend the lowest involved column whose PTR or LEN is no
multiple of VBYTES is UNALIGNED, for a command that passes every earlier check. (That a column with LEN = 0, of which no byte is
read or written, counts here is the model's choice: log entry 25.) -/
def Obligations.UnalignedColumnFaults : Prop :=
  ∀ (i : Instr) (k : Kind) (s : State), i.isMap = true → s.seq = .idle →
    backendSupported s.platform i.backend = true → kindFor i s.mapOf.np = some k →
    ValidJob k s.mapOf (s.targets k.targetCount) →
    let involved := involvedCols k s.mapOf (s.targets k.targetCount)
    let aligned := fun c => vbytes s.platform ∣ (s.mapOf.col c).ptr ∧ vbytes s.platform ∣ (s.mapOf.col c).len
    (i.backend = 0 → ∃ t, exec i s = .next t ∧ t.seq = .busy) ∧
    (i.backend ≠ 0 → ∀ c ∈ involved, ¬aligned c → (∀ c' ∈ involved, c' < c → aligned c') →
      ∃ t, exec i s = .next t ∧ t.seq = .fault ∧ t.fcode = some .unaligned ∧ t.finfo = BitVec.ofNat 64 c ∧ t.mem = s.mem)

/-! ### Parity generation (41_parity_generation.md) -/

/-- Rule R102: the Horner recurrence, first data column first, gives the sums of rule R101 at every offset; it may as well start
with the first column's byte. -/
def Obligations.HornerComputesParity : Prop :=
  ∀ (m : RaidzMap) (mem : Memory) (o : Nat),
    hornerAt m mem o = ⟨parityP m mem o, parityQ m mem o, parityR m mem o⟩ ∧
      ∀ (d : Byte) (rest : List Byte), horner (d :: rest) = rest.foldl Accumulators.advance ⟨d, d, d⟩

/-- Rule R107: the two-phase computation, with one more advance of the multipliers for the skipped short column, equals the
recurrence on padded bytes. -/
def Obligations.TwoPhaseComputesParity : Prop :=
  ∀ (m : RaidzMap) (mem : Memory) (o : Nat), ValidMap m → o < m.commonLen → twoPhaseAt m mem o = hornerAt m mem o

/-- GEN, GENP, GENPQ, GENPQR (rules R101, R103 to R106): an acceptable command on mapped memory is accepted and ends with DONE,
having stored the sums of rule R101 in exactly the parity columns of its kind, and changed no other byte and no register
but STATUS. (That the pass is one transition is the model's choice, log entry 11, which rule R54 permits.) -/
def Obligations.GenerationWritesParity : Prop :=
  ∀ (bk : Nat) (k : Kind) (s : State), ∀ i ∈ genFamily bk, Acceptable i k s → AllMapped s.platform k s.mapOf [] →
    ∃ s₁ s₂, exec i s = .next s₁ ∧ Accepted k bk s s₁ ∧ exec i s₁ = .next s₂ ∧ Completed k s s₂ ∧ s₂.gfr = s.gfr ∧
      (∀ p ∈ k.parities, ∀ o, o < s.mapOf.commonLen →
        s₂.mem.read ((s.mapOf.col p).ptr + o) = parityValue p s.mapOf s.mem o) ∧
      SameOutside (writeSpans k s.mapOf []) s.mem s₂.mem

/-- Rule R109: a direct generation kind writes exactly the parity columns in its name, on a map with more parities too. -/
def Obligations.DirectKindLeavesOtherParities : Prop :=
  ∀ (bk p : Nat) (k : Kind) (s s₁ s₂ : State), ∀ i ∈ [Instr.genp bk, Instr.genpq bk, Instr.genpqr bk],
    Acceptable i k s → exec i s = .next s₁ → exec i s₁ = .next s₂ → p < s.mapOf.np → p ∉ k.parities →
    (∀ q ∈ k.parities, ∀ a, ¬((s.mapOf.col q).contains a = true ∧ (s.mapOf.col p).contains a = true)) →
    ∀ o, o < s.mapOf.commonLen → s₂.mem.read ((s.mapOf.col p).ptr + o) = s.mem.read ((s.mapOf.col p).ptr + o)

/-- Rule R108, determinism: generating again on the unchanged map leaves every byte as the first generation left it. -/
def Obligations.GenerationRepeats : Prop :=
  ∀ (bk : Nat) (k : Kind) (s : State), ∀ i ∈ genFamily bk, Acceptable i k s → AllMapped s.platform k s.mapOf [] →
    ∃ s₁ s₂ s₃ s₄, exec i s = .next s₁ ∧ exec i s₁ = .next s₂ ∧ exec i s₂ = .next s₃ ∧ exec i s₃ = .next s₄ ∧
      s₂.done = true ∧ s₄.done = true ∧ ∀ a, s₄.mem.read a = s₂.mem.read a

/-! ### Reconstruction (42_reconstruction.md) -/

/-- REC and the seven direct kinds (rules R123, R126 to R133): an acceptable command on mapped memory is accepted and ends with
DONE, having stored the closed form's byte of each target at every offset below that target's length, and changed no
other byte and no register but STATUS. -/
def Obligations.ReconstructionStoresSolution : Prop :=
  ∀ (bk valid tcnt : Nat) (k : Kind) (s : State), ∀ i ∈ recFamily bk valid tcnt, Acceptable i k s →
    AllMapped s.platform k s.mapOf (s.targets k.targetCount) →
    ∃ s₁ s₂, exec i s = .next s₁ ∧ Accepted k bk s s₁ ∧ exec i s₁ = .next s₂ ∧ Completed k s s₂ ∧ s₂.gfr = s.gfr ∧
      (∀ j, j < k.targetCount →
        let g := s.mapOf.col ((s.targets k.targetCount).getD j 0)
        ∀ o, o < g.len → s₂.mem.read (g.ptr + o) =
          (recSolution k s.mapOf (s.targets k.targetCount) s.mem o).getD j 0) ∧
      SameOutside (writeSpans k s.mapOf (s.targets k.targetCount)) s.mem s₂.mem

/-- Rule R134: for every reconstruction kind and every acceptable choice of targets the system has exactly one solution at every
offset, for every right-hand side; the closed form gives it; and the original data, where the parities are consistent
with them, is it. -/
def Obligations.RecoveredBytesAreTheSolution : Prop :=
  ∀ (k : Kind) (m : RaidzMap) (targets : List Nat) (mem : Memory) (o : Nat), k ≠ .gfExp2 → k ≠ .gfMul → k.isGen = false →
    ValidMap m → (∀ p ∈ k.parities, p < m.np) → ValidTargets k.targetCount m targets →
    SolvesSystem k m targets mem o (recSolution k m targets mem o) ∧
    (∀ xs : List Byte, xs.length = k.targetCount → SolvesSystem k m targets mem o xs →
      xs = recSolution k m targets mem o) ∧
    (ParityConsistent k m mem → o < m.commonLen →
      SolvesSystem k m targets mem o (targets.map fun t => paddedByte m mem (t - m.np) o))

/-- Rule R136, the round trip: generate, let any acceptable set of targets of an acceptable reconstruction be corrupted, and
reconstruct: every byte of memory is again what the generation left. -/
def Obligations.GenerateThenReconstructRestores : Prop :=
  ∀ (bk bk' valid tcnt : Nat) (k k' : Kind) (s s₁ s₂ u : State), ∀ i ∈ genFamily bk, ∀ r ∈ recFamily bk' valid tcnt,
    Acceptable i k s → AllMapped s.platform k s.mapOf [] → exec i s = .next s₁ → exec i s₁ = .next s₂ →
    u.mapOf = s.mapOf → Acceptable r k' u → AllMapped u.platform k' u.mapOf (u.targets k'.targetCount) →
    (∀ p ∈ k'.parities, p ∈ k.parities) →
    (∀ a, (∀ t ∈ u.targets k'.targetCount, (u.mapOf.col t).contains a = false) → u.mem.read a = s₂.mem.read a) →
    ∃ u₁ u₂, exec r u = .next u₁ ∧ exec r u₁ = .next u₂ ∧ Completed k' u u₂ ∧ ∀ a, u₂.mem.read a = s₂.mem.read a

/-! ### What a data pass depends on and touches (20_memory.md) -/

/-- Rule R47: whatever ends a BUSY command, a bus error or a race included, no byte outside the write set of its latch changes. -/
def Obligations.OnlyWriteSetChanges : Prop :=
  ∀ (s t : State) (l : Latch), s.seq = .busy → s.latched = some l → ValidLatch l → exec l.instr s = .next t →
    ∀ a, l.writes a = false → t.mem.read a = s.mem.read a

/-- The bytes a valid command writes depend on the bytes of its read set and on nothing else in memory: not on a target column,
not on a parity column outside its kind, not on what it overwrites (rules R10, R47, R52). -/
def Obligations.ResultDependsOnReadSetOnly : Prop :=
  ∀ (l : Latch) (m₁ m₂ : Memory), l.instr.isMap = true → ValidLatch l →
    (∀ a, l.reads a = true → m₁.read a = m₂.read a) →
    jobCells l.kind l.map l.targets m₁ = jobCells l.kind l.map l.targets m₂

/-- Rule R184: when an access that cannot be skipped is unmapped, the command ends in BUS_ERROR: VCTX released, KIND and USED
kept, FINFO one of the unmapped addresses of the access set, no byte outside the write set changed. (That FINFO may be any of
them, on every backend: log entry 24, from U15, where R43 says the lowest of an access. Which reads cannot be skipped: log
entry 7.) -/
def Obligations.UnmappedAccessIsBusError : Prop :=
  ∀ (s : State) (l : Latch) (a : Nat), Consistent s → s.seq = .busy → s.latched = some l → l.instr.isMap = true →
    (∃ g ∈ writeSpans l.kind l.map l.targets ++ mustReadSpans l.kind l.map l.targets, g.contains a = true) →
    mapped s.platform a = false →
    ∃ t, exec l.instr s = .next t ∧ t.seq = .fault ∧ t.vctx = false ∧ t.done = false ∧ t.fcode = some .busError ∧
      t.kind = s.kind ∧ t.used = s.used ∧ SameDescriptor s t ∧ t.gfr = s.gfr ∧
      (∃ b, t.finfo = BitVec.ofNat 64 b ∧ mapped s.platform b = false ∧ (l.reads b = true ∨ l.writes b = true)) ∧
      ∀ x, l.writes x = false → t.mem.read x = s.mem.read x

/-! ### Backends (43_vector_backends.md) -/

/-- Rule R150: two runs of the same map command on two backends that both accept it, if both end with DONE, end in the same
state. (After BUS_ERROR the bytes, FINFO and whether a read is skipped may differ: R184, R47, U9, U15. The vector file is
equal because its content is one free value in both runs: log entry 8.) -/
def Obligations.BackendChangesNoResult : Prop :=
  ∀ (i : Instr) (b : Nat) (k : Kind) (s s₁ s₂ u₁ u₂ : State), Acceptable i k s → Acceptable (i.onBackend b) k s →
    exec i s = .next s₁ → exec i s₁ = .next s₂ →
    exec (i.onBackend b) s = .next u₁ → exec (i.onBackend b) u₁ = .next u₂ →
    Finished s₂ → Finished u₂ → s₂ = u₂

/-- The backend changes no fault but BAD_BACKEND and UNALIGNED, and no flag of an accepted command but VCTX (rule R150). -/
def Obligations.BackendChangesNoOtherFault : Prop :=
  ∀ (i : Instr) (b : Nat) (s t u : State), i.isMap = true → s.seq = .idle → exec i s = .next t →
    exec (i.onBackend b) s = .next u →
    (∃ c ∈ [some FaultCode.badBackend, some FaultCode.unaligned], t.fcode = c ∧ t.seq = .fault ∨ u.fcode = c ∧ u.seq = .fault) ∨
      (t.seq = .fault ∧ u = t) ∨
      (t.seq = .busy ∧ u.seq = .busy ∧ u.kind = t.kind ∧ u.used = t.used ∧ u.done = t.done ∧ u.mem = t.mem)

/-- The lane operations lane by lane (rules R153 to R158), on registers that the file has (rule R37): what each does to its
register and to memory, and that it leaves every other register. One that names a register at or above NVREG, or any
register of an engine without a wide-vector backend, does not run (the model's stop: log entry 21). -/
def Obligations.LaneOperations : Prop :=
  (∀ (s : State) (r q a : Nat), FileShape s → r < numVregs s.platform → q < numVregs s.platform →
    (∀ j, j < vbytes s.platform → mapped s.platform (a + j) = true) →
    let others := fun t : State => FileShape t ∧ t.mem = s.mem ∧ ∀ x, x ≠ r → t.lanes x = s.lanes x
    (∃ t, laneStep (.vload r a) s = .ok t ∧ others t ∧
      ∀ j, j < vbytes s.platform → (t.lanes r).getD j 0 = s.mem.read (a + j)) ∧
    (∃ t, laneStep (.vxor r q) s = .ok t ∧ others t ∧
      ∀ j, j < vbytes s.platform → (t.lanes r).getD j 0 = (s.lanes r).getD j 0 ^^^ (s.lanes q).getD j 0) ∧
    (∃ t, laneStep (.vmul2 r) s = .ok t ∧ others t ∧
      ∀ j, j < vbytes s.platform → (t.lanes r).getD j 0 = mul2 ((s.lanes r).getD j 0)) ∧
    (∃ t, laneStep (.vmul4 r) s = .ok t ∧ others t ∧
      ∀ j, j < vbytes s.platform → (t.lanes r).getD j 0 = mul2 (mul2 ((s.lanes r).getD j 0))) ∧
    (∃ t, laneStep (.vstore r a) s = .ok t ∧ t.vfile = s.vfile ∧
      (∀ j, j < vbytes s.platform → t.mem.read (a + j) = (s.lanes r).getD j 0) ∧
      ∀ x, (x < a ∨ a + vbytes s.platform ≤ x) → t.mem.read x = s.mem.read x)) ∧
  (∀ (s : State) (a : Nat), laneStep (.vprefetch a) s = .ok s) ∧
  (∀ (s : State) (r q a : Nat), FileShape s → (hasWide s.platform = true → s.platform.nvreg.toNat ≤ r) →
    ∀ op ∈ [LaneOp.vload r a, .vxor r q, .vmul2 r, .vmul4 r, .vstore r a], laneStep op s = .error (.noRegister r))

/-- Rule R156: multiplication of every lane by a constant byte, composed of doublings and xors, is the field product. -/
def Obligations.LaneConstantMultiply : Prop :=
  ∀ (s : State) (dst src tmp : Nat) (c : Byte), FileShape s → dst ≠ src → dst ≠ tmp → src ≠ tmp →
    dst < numVregs s.platform → src < numVregs s.platform → tmp < numVregs s.platform →
    ∃ t, runLanes (mulConstOps dst src tmp c) s = .ok t ∧ t.mem = s.mem ∧ t.lanes dst = (s.lanes src).map (gfmul c) ∧
      ∀ r, r ≠ dst → r ≠ tmp → t.lanes r = s.lanes r

/-- Rule R159: GenPQR written in lane operations stores, on an aligned map with every byte mapped and an engine with the four
vector registers it uses, exactly what rule R101 gives. -/
def Obligations.LaneKernelGeneratesParity : Prop :=
  ∀ (s : State) (m : RaidzMap), FileShape s → 4 ≤ numVregs s.platform → ValidJob .genPQR m [] →
    AlignedTo (vbytes s.platform) .genPQR m [] → AllMapped s.platform .genPQR m [] →
    ∃ t, runLanes (genKernel (vbytes s.platform) m) s = .ok t ∧
      ∀ a, t.mem.read a = (s.mem.writeAll (jobCells .genPQR m [] s.mem)).read a

/-! ### Host port, control and sequencing (10_state.md, 44_control.md, 60_exceptions.md) -/

/-- A CMD write in IDLE runs the decoded command: the step is `exec` of it, on the state less that action (rules R18, R62). And
the step after it, once the host waits, is the latched command's own move. (Whose turn it is: the model's, log entry 9.) -/
def Obligations.StepRunsDecodedCommand : Prop :=
  (∀ (s : State) (w : Word) (i : Instr) (rest : List HostAction), s.seq = .idle → s.held = [] →
    s.inputs = .write 3 w :: rest → decode w = .ok i → step s = exec i (s.withInputs rest)) ∧
  (∀ (s : State) (l : Latch), s.seq = .busy → s.latched = some l →
    (s.inputs = [] ∨ ∃ rest, s.inputs = .wait :: rest) → step s = exec l.instr s)

/-- Rule R12: which register numbers are RW; such a register gives back the 64 bits last written in IDLE, no other register changes
with it, no command writes it, and no step changes it but the host's write to it in IDLE (a held one included) and a hardware
reset (R39); CAP, STATUS, GFR and FINFO ignore writes; CTRL and CMD read as 0. -/
def Obligations.RegisterStorage : Prop :=
  (∀ r : Nat, (Reg.ofNumber r).isRw = true ↔ (4 ≤ r ∧ r ≤ 11) ∨ (256 ≤ r ∧ r < 2320 ∧ (r - 256) % 8 < 5)) ∧
  (∀ (i : Instr) (s t : State), exec i s = .next t → SameDescriptor s t) ∧
  (∀ (s : State) (r : Nat) (v : Word), s.seq = .idle → (Reg.ofNumber r).isRw = true →
    ∃ t, hostWrite r v s = .next t ∧ t.readReg (Reg.ofNumber r) = v ∧ t.mem = s.mem ∧
      ∀ q, Reg.ofNumber q ≠ Reg.ofNumber r → t.readReg (Reg.ofNumber q) = s.readReg (Reg.ofNumber q)) ∧
  (∀ (s t : State) (r : Nat), (Reg.ofNumber r).isRw = true → step s = .next t →
    t.readReg (Reg.ofNumber r) = s.readReg (Reg.ofNumber r) ∨
    (s.seq = .idle ∧ ∃ v more, s.held = (r, v) :: more) ∨
    (s.seq = .idle ∧ s.held = [] ∧ ∃ v rest, s.inputs = .write r v :: rest) ∨
    ((s.seq = .busy ∨ s.held = []) ∧ ∃ rest, s.inputs = .hardReset :: rest)) ∧
  (∀ (s : State) (r : Nat) (v : Word), r ∈ [0, 2, 12, 13] → hostWrite r v s = .next s) ∧
  (∀ s : State, s.readReg (Reg.ofNumber 1) = 0 ∧ s.readReg (Reg.ofNumber 3) = 0)

/-- Rule R14: a reserved register number reads as 0 and ignores writes, in every state. -/
def Obligations.ReservedRegisters : Prop :=
  ∀ (s : State) (r : Nat) (v : Word),
    ((14 ≤ r ∧ r < 256) ∨ (256 ≤ r ∧ r < 2320 ∧ 5 ≤ (r - 256) % 8) ∨ 2320 ≤ r) →
    s.readReg (Reg.ofNumber r) = 0 ∧ hostWrite r v s = .next s

/-- Rule R13: in BUSY a write to CMD or an RW register is held and changes nothing else; outside BUSY held writes are performed
before anything else, oldest first, and as any host write is; CTRL writes and reads are not held. (That several writes can
be held, and their order, is the model's choice: log entry 13; whose turn it is: log entry 9.) -/
def Obligations.HeldWrites : Prop :=
  (∀ (s : State) (r : Nat) (v : Word) (rest : List HostAction), s.seq = .busy → s.inputs = .write r v :: rest →
    (r = 3 ∨ (Reg.ofNumber r).isRw = true) → step s = .next ((s.withInputs rest).hold r v)) ∧
  (∀ (s : State) (r : Nat) (v : Word) (more : List (Nat × Word)), s.seq ≠ .busy → s.held = (r, v) :: more →
    step s = hostWrite r v (s.withHeld more)) ∧
  (∀ (s : State) (v : Word) (rest : List HostAction), s.seq = .busy → s.inputs = .write 1 v :: rest →
    step s = .next ((s.withInputs rest).writeCtrl v)) ∧
  (∀ (s : State) (r : Nat) (rest : List HostAction), s.seq = .busy → s.inputs = .read r :: rest →
    ∃ t, step s = .next t ∧ t.rdata = s.readReg (Reg.ofNumber r) ∧ t.seq = .busy ∧ t.latched = s.latched)

/-- The descriptor a command runs on cannot change under it (rules R13, R55): over a step that leaves the engine BUSY no RW
register changes, and the latch keeps its command, kind, backend, map, targets and operands. -/
def Obligations.DescriptorFixedWhileBusy : Prop :=
  ∀ (s t : State) (l : Latch), s.seq = .busy → s.latched = some l → step s = .next t → t.seq = .busy →
    SameDescriptor s t ∧ ∃ raced, t.latched = some { l with raced := raced }

/-- Rule R15: CAP is what the platform implements, bit 0 always 1, with LOGVB and NVREG 0 when there is no wide-vector backend,
and no step changes it. -/
def Obligations.CapConstant : Prop :=
  (∀ p : Platform, (capWord p).getLsbD 0 = true ∧
    (∀ b, b < 16 → (capWord p).getLsbD b = backendSupported p b) ∧
    bitField (capWord p) 16 8 = (if hasWide p then p.logVB.toNat else 0) ∧
    bitField (capWord p) 24 8 = (if hasWide p then p.nvreg.toNat else 0) ∧ bitField (capWord p) 32 32 = 0) ∧
  (∀ s t : State, step s = .next t → t.readReg .cap = s.readReg .cap)

/-- Rule R16: the fields of STATUS and their places; every other bit is 0. -/
def Obligations.StatusFields : Prop :=
  ∀ s : State, let w := s.statusWord
    w.getLsbD 0 = decide (s.seq = .busy) ∧ w.getLsbD 1 = s.done ∧ w.getLsbD 2 = decide (s.seq = .fault) ∧
    w.getLsbD 3 = s.vctx ∧ bitField w 4 4 = kindCode s.kind ∧ bitField w 8 3 = s.used.toNat ∧ bitField w 11 5 = 0 ∧
    bitField w 16 8 = faultCode s.fcode ∧ bitField w 24 40 = 0

/-- Rule R17: a write of CTRL: bit 0 resets, bit 1 with bit 0 = 0 acknowledges, both 0 does nothing; the other bits are ignored;
a read returns 0. In every sequencing state. -/
def Obligations.ControlRegister : Prop :=
  ∀ (s : State) (v : Word),
    (v.getLsbD 0 = true → hostWrite 1 v s = .next s.softReset) ∧
    (v.getLsbD 0 = false → v.getLsbD 1 = true → hostWrite 1 v s = .next s.ack) ∧
    (v.getLsbD 0 = false → v.getLsbD 1 = false → hostWrite 1 v s = .next s) ∧ s.readReg (Reg.ofNumber 1) = 0

/-- Rule R171: what a soft reset leaves, in any state: IDLE, STATUS, FINFO and GFR 0, nothing latched, the vector file
unspecified (every lane a free value), the descriptor and the held writes kept, and no byte outside the write set of an abandoned
command changed. -/
def Obligations.SoftReset : Prop :=
  ∀ s : State, ∃ t, hostWrite 1 1 s = .next t ∧ t.seq = .idle ∧ t.statusWord = 0 ∧ t.finfo = 0 ∧ t.gfr = 0 ∧
    t.latched = none ∧ (∃ n, t.vfile = freeFile s.platform n) ∧ SameDescriptor s t ∧ t.held = s.held ∧
    ∀ a, (∀ l, s.latched = some l → l.writes a = false) → t.mem.read a = s.mem.read a

/-- Rule R172: ACK clears DONE and changes nothing else, in any state. -/
def Obligations.AckClearsDoneOnly : Prop :=
  ∀ s : State, ∃ t, hostWrite 1 2 s = .next t ∧ t.done = false ∧ t.seq = s.seq ∧ t.vctx = s.vctx ∧ t.kind = s.kind ∧
    t.used = s.used ∧ t.fcode = s.fcode ∧ t.finfo = s.finfo ∧ t.gfr = s.gfr ∧ t.latched = s.latched ∧ t.mem = s.mem ∧
    SameDescriptor s t ∧ SameHostSide s t

/-- Rule R190: FAULT is sticky. A step from FAULT that is no write of CTRL with bit 0 and no hardware reset stays in FAULT, is not
finished, and keeps the fault record, KIND, USED, VCTX, the registers, data memory unless an agent stores to it, and, in a
consistent state (where DONE is 0), all of STATUS; a write to CMD or to an RW register is ignored, and so is ACK in a
consistent state; no command has an effect; reads work and change nothing but what the host has read; a soft and a hardware
reset both leave FAULT and discard the fault record. -/
def Obligations.FaultIsSticky : Prop :=
  (∀ s t : State, s.seq = .fault → step s = .next t →
    (t.seq = .fault ∧ t.fcode = s.fcode ∧ t.finfo = s.finfo ∧ t.kind = s.kind ∧ t.used = s.used ∧ t.vctx = s.vctx ∧
      t.gfr = s.gfr ∧ SameDescriptor s t ∧ ¬Finished t ∧ ((∀ a b rest, s.inputs ≠ .store a b :: rest) → t.mem = s.mem) ∧
      (Consistent s → t.statusWord = s.statusWord)) ∨
    (∃ v more, s.held = (1, v) :: more ∧ v.getLsbD 0 = true) ∨
    (s.held = [] ∧ ∃ rest, (∃ v, s.inputs = .write 1 v :: rest ∧ v.getLsbD 0 = true) ∨ s.inputs = .hardReset :: rest)) ∧
  (∀ (s : State) (r : Nat) (v : Word), s.seq = .fault → r = 3 ∨ (Reg.ofNumber r).isRw = true →
    hostWrite r v s = .next s) ∧
  (∀ (s : State) (v : Word), Consistent s → s.seq = .fault → v.getLsbD 0 = false → hostWrite 1 v s = .next s) ∧
  (∀ (s : State) (i : Instr), s.seq = .fault → exec i s = .next s) ∧
  (∀ (s : State) (r : Nat) (rest : List HostAction), s.seq = .fault → s.held = [] → s.inputs = .read r :: rest →
    step s = .next { s with inputs := rest, rdata := s.readReg (Reg.ofNumber r) }) ∧
  (∀ (s : State) (v : Word), s.seq = .fault → v.getLsbD 0 = true →
    ∃ t, hostWrite 1 v s = .next t ∧ t.seq = .idle ∧ t.fcode = none ∧ t.finfo = 0) ∧
  (∀ s : State, s.seq = .fault → ∃ t, hostStep .hardReset s = .next t ∧ t.seq = .idle ∧ t.fcode = none ∧ t.finfo = 0)

/-- After the host's WAIT that follows a CMD write made in IDLE, exactly one of DONE and FAULT is 1, and what the host read is STATUS
(rule R173). Three steps take the machine there: the write, the engine's move or the poll, the poll or a pause
(the model's turns, log entry 9). -/
def Obligations.WaitEndsWithDoneOrFault : Prop :=
  ∀ (s : State) (w : Word), Consistent s → s.seq = .idle → s.held = [] → s.inputs = [.write 3 w, .wait] →
    ∃ t, Sys2Proof.core.run 3 s = .next t ∧ t.inputs = [] ∧ t.rdata = t.statusWord ∧
      ((Finished t ∧ ¬Failed t) ∨ (Failed t ∧ t.done = false))

/-- Rule R221: every accepted command ends. A BUSY engine whose host waits leaves BUSY with DONE or in FAULT. (The rule
gives a finite time; that it is one step is the model's choice: log entries 9, 11.) -/
def Obligations.AcceptedCommandEnds : Prop :=
  ∀ s : State, Consistent s → s.seq = .busy → (s.inputs = [] ∨ ∃ rest, s.inputs = .wait :: rest) →
    ∃ t, step s = .next t ∧ (Finished t ∨ (Failed t ∧ t.fcode = some .busError))

/-- Rules R39 and R210: the values that a hardware reset leaves where the spec gives one, at power-on and in any state during a
run, for every platform and column table; data memory is unchanged unless a command was running, and then
in every byte outside the write set of that command (log entry 14). -/
def Obligations.ResetValues : Prop :=
  let isReset := fun t : State =>
    t.seq = .idle ∧ t.statusWord = 0 ∧ t.finfo = 0 ∧ t.gfr = 0 ∧ t.ncols = 0 ∧ t.nparity = 0 ∧ t.colshift = 0 ∧
      t.tgt0 = 0 ∧ t.tgt1 = 0 ∧ t.tgt2 = 0 ∧ t.gfa = 0 ∧ t.gfb = 0 ∧ t.latched = none
  isReset State.reset ∧ (∀ p c m, isReset (State.resetWith p c m) ∧ (State.resetWith p c m).mem = m) ∧
    ∀ s : State, ∃ t, hostStep .hardReset s = .next t ∧ isReset t ∧ t.platform = s.platform ∧
      (s.latched = none → t.mem = s.mem) ∧
      ∀ a, (∀ l, s.latched = some l → l.writes a = false) → t.mem.read a = s.mem.read a

/-! ### Invariants -/

/-- What rules R16, R35, R36, R37, R38, R62 and R151 say of the status registers, the latch and the vector file holds after every
step from a state in which it holds. -/
def Obligations.StepKeepsConsistent : Prop :=
  ∀ s t : State, Consistent s → step s = .next t → Consistent t

/-- It holds at reset. -/
def Obligations.ResetIsConsistent : Prop := Consistent State.reset

/-- Every step keeps data memory in its canonical form, so that equal memories are equal data; it has it at reset. -/
def Obligations.StepKeepsMemoryCanonical : Prop :=
  Memory.wf State.reset.mem ∧ ∀ s t : State, Memory.wf s.mem → step s = .next t → Memory.wf t.mem

/-! ### What a command latches -/

/-- Rule R62: every command, a GF command too, latches at acceptance its kind, its backend and the map registers, TGT0 to TGT2,
GFA and GFB as they stood at issue. (That "the map registers" are the whole column table: log entry 22.) -/
def Obligations.AcceptanceLatchesRegisters : Prop :=
  ∀ (i : Instr) (s t : State), s.seq = .idle → exec i s = .next t → t.seq = .busy →
    SameDescriptor s t ∧ ∃ k, t.kind = some k ∧ t.latched = some
      { instr := i, kind := k, bk := i.backend,
        desc := ⟨s.ncols, s.nparity, s.colshift, s.cols, s.tgt0, s.tgt1, s.tgt2⟩,
        gfa := s.gfa, gfb := s.gfb, raced := false }
end

