-- ==== Sys2Proof/Laws/Memory.lean ====
section
/-! SUPPORT. What memory operations do: read after write, other addresses untouched, the canonical form kept. The laws of
`read` hold for every memory; only `wf` lemmas have a premise. -/

namespace Sys2Proof.Machine

theorem Memory.read_nil (a : Nat) : Memory.read [] a = 0 := rfl

theorem Memory.read_cons (k : Nat) (v : Byte) (m : Memory) (a : Nat) :
    Memory.read ((k, v) :: m) a = if k = a then v else Memory.read m a := rfl

theorem Memory.read_erase_same (m : Memory) (a : Nat) : Memory.read (Memory.erase m a) a = 0 := by
  induction m with
  | nil => rfl
  | cons c rest ih =>
    by_cases h : c.1 = a
    · simpa [Memory.erase, h] using ih
    · simpa [Memory.erase, Memory.read, h] using ih

theorem Memory.read_erase_other (m : Memory) {a x : Nat} (h : x ≠ a) :
    Memory.read (Memory.erase m a) x = Memory.read m x := by
  induction m with
  | nil => rfl
  | cons c rest ih =>
    by_cases hc : c.1 = a
    · have : c.1 ≠ x := fun e => h (e ▸ hc)
      simpa [Memory.erase, Memory.read, hc, this, Ne.symm h] using ih
    · by_cases hx : c.1 = x <;> simp_all [Memory.erase, Memory.read]

theorem Memory.erase_keys (m : Memory) (a : Nat) : ∀ c ∈ Memory.erase m a, c.1 ≠ a := by
  intro c hc
  simpa using (List.mem_filter.mp hc).2

theorem Memory.read_insert_same (m : Memory) (a : Nat) (b : Byte) (h : ∀ c ∈ m, c.1 ≠ a) :
    Memory.read (Memory.insert m a b) a = b := by
  induction m with
  | nil => simp [Memory.insert, Memory.read]
  | cons c rest ih =>
    have hc : c.1 ≠ a := h c (by simp)
    by_cases hlt : a < c.1
    · simp [Memory.insert, Memory.read, hlt]
    · simp [Memory.insert, Memory.read, hlt, hc, ih fun d hd => h d (by simp [hd])]

theorem Memory.read_insert_other (m : Memory) {a x : Nat} (b : Byte) (h : x ≠ a) :
    Memory.read (Memory.insert m a b) x = Memory.read m x := by
  induction m with
  | nil => simp [Memory.insert, Memory.read, Ne.symm h, Memory.blank]
  | cons c rest ih =>
    by_cases hlt : a < c.1
    · simp [Memory.insert, Memory.read, hlt, Ne.symm h]
    · simp [Memory.insert, Memory.read, hlt, ih]

/-- Reading back what was written, and nothing else changed. -/
theorem Memory.read_write (m : Memory) (a : Nat) (b : Byte) (x : Nat) :
    Memory.read (Memory.write m a b) x = if x = a then b else Memory.read m x := by
  by_cases hx : x = a
  · subst hx
    by_cases hb : b = Memory.blank
    · simpa [Memory.write, hb, Memory.blank] using Memory.read_erase_same m x
    · simp [Memory.write, hb, Memory.read_insert_same _ x b (Memory.erase_keys m x)]
  · by_cases hb : b = Memory.blank
    · simp [Memory.write, hb, hx, Memory.read_erase_other m hx]
    · simp [Memory.write, hb, hx, Memory.read_insert_other _ b hx, Memory.read_erase_other m hx]

@[simp] theorem Memory.read_write_same (m : Memory) (a : Nat) (b : Byte) :
    Memory.read (Memory.write m a b) a = b := by simp [Memory.read_write]

theorem Memory.read_write_other (m : Memory) {a x : Nat} (b : Byte) (h : x ≠ a) :
    Memory.read (Memory.write m a b) x = Memory.read m x := by simp [Memory.read_write, h]

@[simp] theorem Memory.writeAll_nil (m : Memory) : Memory.writeAll m [] = m := rfl

@[simp] theorem Memory.writeAll_cons (m : Memory) (c : Host.Cell) (cs : List Host.Cell) :
    Memory.writeAll m (c :: cs) = Memory.writeAll (Memory.write m c.1 c.2) cs := rfl

theorem Memory.writeAll_append (m : Memory) (cs ds : List Host.Cell) :
    Memory.writeAll m (cs ++ ds) = Memory.writeAll (Memory.writeAll m cs) ds := by
  simp [Memory.writeAll]

/-- An address that no written cell names reads as before. -/
theorem Memory.read_writeAll_other (cs : List Host.Cell) (m : Memory) (x : Nat) (h : ∀ c ∈ cs, c.1 ≠ x) :
    Memory.read (Memory.writeAll m cs) x = Memory.read m x := by
  induction cs generalizing m with
  | nil => rfl
  | cons c rest ih =>
    rw [Memory.writeAll_cons, ih _ fun d hd => h d (by simp [hd])]
    exact Memory.read_write_other m c.2 (Ne.symm (h c (by simp)))

/-- An address that a written cell names reads as that cell's byte, if all cells of the address agree. -/
theorem Memory.read_writeAll_mem (cs : List Host.Cell) (m : Memory) (x : Nat) (b : Byte)
    (hin : (x, b) ∈ cs) (hall : ∀ c ∈ cs, c.1 = x → c.2 = b) :
    Memory.read (Memory.writeAll m cs) x = b := by
  induction cs generalizing m with
  | nil => simp at hin
  | cons c rest ih =>
    rw [Memory.writeAll_cons]
    by_cases hr : (x, b) ∈ rest
    · exact ih _ hr fun d hd => hall d (by simp [hd])
    · have hc : c = (x, b) := by simpa [hr, eq_comm] using hin
      subst hc
      by_cases hex : ∃ d ∈ rest, d.1 = x
      · obtain ⟨d, hd, hdx⟩ := hex
        have : d.2 = b := hall d (by simp [hd]) hdx
        exact absurd (show (x, b) ∈ rest by rw [← hdx, ← this]; exact hd) hr
      · rw [Memory.read_writeAll_other rest _ x fun d hd hdx => hex ⟨d, hd, hdx⟩]
        simp

/-! ### The canonical form -/

theorem Memory.wf_nil : Memory.wf [] := by simp [Memory.wf]

theorem Memory.wf_erase {m : Memory} (h : Memory.wf m) (a : Nat) : Memory.wf (Memory.erase m a) :=
  ⟨h.1.filter _, fun c hc => h.2 c (List.mem_filter.mp hc).1⟩

theorem Memory.mem_insert (m : Memory) (a : Nat) (b : Byte) (c : Host.Cell) :
    c ∈ Memory.insert m a b ↔ c = (a, b) ∨ c ∈ m := by
  induction m with
  | nil => simp [Memory.insert]
  | cons d rest ih =>
    by_cases hlt : a < d.1
    · simp [Memory.insert, hlt]
    · simp only [Memory.insert, hlt, if_false, List.mem_cons, ih]
      tauto

theorem Memory.wf_insert {m : Memory} (h : Memory.wf m) {a : Nat} {b : Byte} (hb : b ≠ Memory.blank)
    (ha : ∀ c ∈ m, c.1 ≠ a) : Memory.wf (Memory.insert m a b) := by
  refine ⟨?_, fun c hc => ?_⟩
  · obtain ⟨hp, -⟩ := h
    induction m with
    | nil => simp [Memory.insert]
    | cons d rest ih =>
      obtain ⟨hd, hrest⟩ := List.pairwise_cons.mp hp
      by_cases hlt : a < d.1
      · simp only [Memory.insert, hlt, if_true]
        refine List.pairwise_cons.mpr ⟨fun c hc => ?_, hp⟩
        rcases List.mem_cons.mp hc with rfl | hc
        · exact hlt
        · exact lt_trans hlt (hd c hc)
      · simp only [Memory.insert, hlt, if_false]
        refine List.pairwise_cons.mpr ⟨fun c hc => ?_, ih (fun c hc => ha c (by simp [hc])) hrest⟩
        rcases (Memory.mem_insert rest a b c).mp hc with rfl | hc
        · exact lt_of_le_of_ne (Nat.le_of_not_lt hlt) (ha d (by simp))
        · exact hd c hc
  · rcases (Memory.mem_insert m a b c).mp hc with rfl | hc
    · exact hb
    · exact h.2 c hc

/-- A write keeps the canonical form. -/
theorem Memory.wf_write {m : Memory} (h : Memory.wf m) (a : Nat) (b : Byte) : Memory.wf (Memory.write m a b) := by
  by_cases hb : b = Memory.blank
  · simpa [Memory.write, hb] using Memory.wf_erase h a
  · simpa [Memory.write, hb] using Memory.wf_insert (Memory.wf_erase h a) hb (Memory.erase_keys m a)

/-- So do several. -/
theorem Memory.wf_writeAll {m : Memory} (h : Memory.wf m) (cs : List Host.Cell) : Memory.wf (Memory.writeAll m cs) := by
  induction cs generalizing m with
  | nil => exact h
  | cons c rest ih => exact ih (Memory.wf_write h c.1 c.2)

/-- In the canonical form a listed cell is what its address reads as. -/
theorem Memory.read_of_mem {m : Memory} (h : Memory.wf m) {c : Host.Cell} (hc : c ∈ m) : Memory.read m c.1 = c.2 := by
  induction m with
  | nil => simp at hc
  | cons d rest ih =>
    obtain ⟨hd, hrest⟩ := List.pairwise_cons.mp h.1
    rcases List.mem_cons.mp hc with rfl | hc
    · simp [Memory.read]
    · have : d.1 ≠ c.1 := Nat.ne_of_lt (hd c hc)
      simpa [Memory.read, this] using ih ⟨hrest, fun e he => h.2 e (by simp [he])⟩ hc

/-- In the canonical form an address that reads as something else than the blank byte is listed. -/
theorem Memory.mem_of_read {m : Memory} {a : Nat} (h : Memory.read m a ≠ 0) : (a, Memory.read m a) ∈ m := by
  induction m with
  | nil => simp [Memory.read, Memory.blank] at h
  | cons d rest ih =>
    obtain ⟨k, v⟩ := d
    by_cases hk : k = a
    · simp [Memory.read, hk]
    · simp only [Memory.read, hk, if_false] at h ⊢
      exact List.mem_cons_of_mem _ (ih h)

/-- Two memories in the canonical form that read alike everywhere are equal data. -/
theorem Memory.ext_of_wf {m₁ m₂ : Memory} (h₁ : Memory.wf m₁) (h₂ : Memory.wf m₂)
    (h : ∀ a, Memory.read m₁ a = Memory.read m₂ a) : m₁ = m₂ := by
  have sub : ∀ {x y : Memory}, Memory.wf x → (∀ a, Memory.read x a = Memory.read y a) → ∀ c ∈ x, c ∈ y := by
    intro x y hx hxy c hc
    have hr := Memory.read_of_mem hx hc
    have hne : Memory.read y c.1 ≠ 0 := by rw [← hxy, hr]; exact hx.2 c hc
    have := Memory.mem_of_read hne
    rwa [← hxy, hr] at this
  have nodup : ∀ {x : Memory}, Memory.wf x → x.Nodup := fun hx => hx.1.imp fun hlt => by
    rintro rfl
    exact absurd hlt (lt_irrefl _)
  have hperm : m₁.Perm m₂ := (List.perm_ext_iff_of_nodup (nodup h₁) (nodup h₂)).mpr fun c =>
    ⟨sub h₁ h c, sub h₂ (fun a => (h a).symm) c⟩
  exact hperm.eq_of_pairwise (fun a b _ _ hab hba => absurd (lt_trans hab hba) (lt_irrefl _)) h₁.1 h₂.1

end Sys2Proof.Machine
end

