-- ==== Sys2Proof/Laws/State.lean ====
section
/-! SUPPORT. One lemma per field per named update of State, true by rfl: no later proof unfolds a record update. -/

namespace Sys2Proof.Machine

/-! ### What a command latches (rule R62) -/

@[simp] theorem State.latch_instr (s : State) (i : Instr) (bk : Nat) (k : Kind) : (s.latch i bk k).instr = i := rfl
@[simp] theorem State.latch_kind (s : State) (i : Instr) (bk : Nat) (k : Kind) : (s.latch i bk k).kind = k := rfl
@[simp] theorem State.latch_bk (s : State) (i : Instr) (bk : Nat) (k : Kind) : (s.latch i bk k).bk = bk := rfl
@[simp] theorem State.latch_desc (s : State) (i : Instr) (bk : Nat) (k : Kind) : (s.latch i bk k).desc = s.descriptor := rfl
@[simp] theorem State.latch_gfa (s : State) (i : Instr) (bk : Nat) (k : Kind) : (s.latch i bk k).gfa = s.gfa := rfl
@[simp] theorem State.latch_gfb (s : State) (i : Instr) (bk : Nat) (k : Kind) : (s.latch i bk k).gfb = s.gfb := rfl
@[simp] theorem State.latch_raced (s : State) (i : Instr) (bk : Nat) (k : Kind) : (s.latch i bk k).raced = false := rfl
@[simp] theorem State.latch_map (s : State) (i : Instr) (bk : Nat) (k : Kind) : (s.latch i bk k).map = s.mapOf := rfl
@[simp] theorem State.latch_targets (s : State) (i : Instr) (bk : Nat) (k : Kind) : (s.latch i bk k).targets = s.targets k.targetCount := rfl

/-! ### Fault entry at issue -/

@[simp] theorem State.raiseFault_platform (s : State) (r : Reject) : (s.raiseFault r).platform = s.platform := rfl
@[simp] theorem State.raiseFault_seq (s : State) (r : Reject) : (s.raiseFault r).seq = .fault := rfl
@[simp] theorem State.raiseFault_done (s : State) (r : Reject) : (s.raiseFault r).done = false := rfl
@[simp] theorem State.raiseFault_vctx (s : State) (r : Reject) : (s.raiseFault r).vctx = s.vctx := rfl
@[simp] theorem State.raiseFault_kind (s : State) (r : Reject) : (s.raiseFault r).kind = none := rfl
@[simp] theorem State.raiseFault_used (s : State) (r : Reject) : (s.raiseFault r).used = 0 := rfl
@[simp] theorem State.raiseFault_fcode (s : State) (r : Reject) : (s.raiseFault r).fcode = some r.code := rfl
@[simp] theorem State.raiseFault_finfo (s : State) (r : Reject) : (s.raiseFault r).finfo = r.info := rfl
@[simp] theorem State.raiseFault_ncols (s : State) (r : Reject) : (s.raiseFault r).ncols = s.ncols := rfl
@[simp] theorem State.raiseFault_nparity (s : State) (r : Reject) : (s.raiseFault r).nparity = s.nparity := rfl
@[simp] theorem State.raiseFault_colshift (s : State) (r : Reject) : (s.raiseFault r).colshift = s.colshift := rfl
@[simp] theorem State.raiseFault_tgt0 (s : State) (r : Reject) : (s.raiseFault r).tgt0 = s.tgt0 := rfl
@[simp] theorem State.raiseFault_tgt1 (s : State) (r : Reject) : (s.raiseFault r).tgt1 = s.tgt1 := rfl
@[simp] theorem State.raiseFault_tgt2 (s : State) (r : Reject) : (s.raiseFault r).tgt2 = s.tgt2 := rfl
@[simp] theorem State.raiseFault_gfa (s : State) (r : Reject) : (s.raiseFault r).gfa = s.gfa := rfl
@[simp] theorem State.raiseFault_gfb (s : State) (r : Reject) : (s.raiseFault r).gfb = s.gfb := rfl
@[simp] theorem State.raiseFault_gfr (s : State) (r : Reject) : (s.raiseFault r).gfr = s.gfr := rfl
@[simp] theorem State.raiseFault_cols (s : State) (r : Reject) : (s.raiseFault r).cols = s.cols := rfl
@[simp] theorem State.raiseFault_latched (s : State) (r : Reject) : (s.raiseFault r).latched = s.latched := rfl
@[simp] theorem State.raiseFault_vfile (s : State) (r : Reject) : (s.raiseFault r).vfile = s.vfile := rfl
@[simp] theorem State.raiseFault_mem (s : State) (r : Reject) : (s.raiseFault r).mem = s.mem := rfl
@[simp] theorem State.raiseFault_held (s : State) (r : Reject) : (s.raiseFault r).held = s.held := rfl
@[simp] theorem State.raiseFault_inputs (s : State) (r : Reject) : (s.raiseFault r).inputs = s.inputs := rfl
@[simp] theorem State.raiseFault_rdata (s : State) (r : Reject) : (s.raiseFault r).rdata = s.rdata := rfl
@[simp] theorem State.raiseFault_freeCtr (s : State) (r : Reject) : (s.raiseFault r).freeCtr = s.freeCtr := rfl
@[simp] theorem State.raiseFault_mapOf (s : State) (r : Reject) : (s.raiseFault r).mapOf = s.mapOf := rfl
@[simp] theorem State.raiseFault_descriptor (s : State) (r : Reject) : (s.raiseFault r).descriptor = s.descriptor := rfl
@[simp] theorem State.raiseFault_column (s : State) (r : Reject) (c : Nat) : (s.raiseFault r).column c = s.column c := rfl
@[simp] theorem State.raiseFault_targets (s : State) (r : Reject) (k : Nat) : (s.raiseFault r).targets k = s.targets k := rfl

/-! ### Acceptance -/

@[simp] theorem State.accept_platform (s : State) (l : Latch) : (s.accept l).platform = s.platform := rfl
@[simp] theorem State.accept_seq (s : State) (l : Latch) : (s.accept l).seq = .busy := rfl
@[simp] theorem State.accept_done (s : State) (l : Latch) : (s.accept l).done = false := rfl
@[simp] theorem State.accept_vctx (s : State) (l : Latch) : (s.accept l).vctx = decide (l.bk ≠ 0) := rfl
@[simp] theorem State.accept_kind (s : State) (l : Latch) : (s.accept l).kind = some l.kind := rfl
@[simp] theorem State.accept_used (s : State) (l : Latch) : (s.accept l).used = l.kind.usedMask := rfl
@[simp] theorem State.accept_fcode (s : State) (l : Latch) : (s.accept l).fcode = s.fcode := rfl
@[simp] theorem State.accept_finfo (s : State) (l : Latch) : (s.accept l).finfo = s.finfo := rfl
@[simp] theorem State.accept_ncols (s : State) (l : Latch) : (s.accept l).ncols = s.ncols := rfl
@[simp] theorem State.accept_nparity (s : State) (l : Latch) : (s.accept l).nparity = s.nparity := rfl
@[simp] theorem State.accept_colshift (s : State) (l : Latch) : (s.accept l).colshift = s.colshift := rfl
@[simp] theorem State.accept_tgt0 (s : State) (l : Latch) : (s.accept l).tgt0 = s.tgt0 := rfl
@[simp] theorem State.accept_tgt1 (s : State) (l : Latch) : (s.accept l).tgt1 = s.tgt1 := rfl
@[simp] theorem State.accept_tgt2 (s : State) (l : Latch) : (s.accept l).tgt2 = s.tgt2 := rfl
@[simp] theorem State.accept_gfa (s : State) (l : Latch) : (s.accept l).gfa = s.gfa := rfl
@[simp] theorem State.accept_gfb (s : State) (l : Latch) : (s.accept l).gfb = s.gfb := rfl
@[simp] theorem State.accept_gfr (s : State) (l : Latch) : (s.accept l).gfr = s.gfr := rfl
@[simp] theorem State.accept_cols (s : State) (l : Latch) : (s.accept l).cols = s.cols := rfl
@[simp] theorem State.accept_latched (s : State) (l : Latch) : (s.accept l).latched = some l := rfl
@[simp] theorem State.accept_vfile (s : State) (l : Latch) : (s.accept l).vfile = s.vfile := rfl
@[simp] theorem State.accept_mem (s : State) (l : Latch) : (s.accept l).mem = s.mem := rfl
@[simp] theorem State.accept_held (s : State) (l : Latch) : (s.accept l).held = s.held := rfl
@[simp] theorem State.accept_inputs (s : State) (l : Latch) : (s.accept l).inputs = s.inputs := rfl
@[simp] theorem State.accept_rdata (s : State) (l : Latch) : (s.accept l).rdata = s.rdata := rfl
@[simp] theorem State.accept_freeCtr (s : State) (l : Latch) : (s.accept l).freeCtr = s.freeCtr := rfl
@[simp] theorem State.accept_mapOf (s : State) (l : Latch) : (s.accept l).mapOf = s.mapOf := rfl
@[simp] theorem State.accept_descriptor (s : State) (l : Latch) : (s.accept l).descriptor = s.descriptor := rfl
@[simp] theorem State.accept_column (s : State) (l : Latch) (c : Nat) : (s.accept l).column c = s.column c := rfl
@[simp] theorem State.accept_targets (s : State) (l : Latch) (k : Nat) : (s.accept l).targets k = s.targets k := rfl

/-! ### End of a command -/

@[simp] theorem State.finish_platform (s : State) (g : Word) (m : Memory) : (s.finish g m).platform = s.platform := rfl
@[simp] theorem State.finish_seq (s : State) (g : Word) (m : Memory) : (s.finish g m).seq = .idle := rfl
@[simp] theorem State.finish_done (s : State) (g : Word) (m : Memory) : (s.finish g m).done = true := rfl
@[simp] theorem State.finish_vctx (s : State) (g : Word) (m : Memory) : (s.finish g m).vctx = false := rfl
@[simp] theorem State.finish_kind (s : State) (g : Word) (m : Memory) : (s.finish g m).kind = s.kind := rfl
@[simp] theorem State.finish_used (s : State) (g : Word) (m : Memory) : (s.finish g m).used = s.used := rfl
@[simp] theorem State.finish_fcode (s : State) (g : Word) (m : Memory) : (s.finish g m).fcode = s.fcode := rfl
@[simp] theorem State.finish_finfo (s : State) (g : Word) (m : Memory) : (s.finish g m).finfo = s.finfo := rfl
@[simp] theorem State.finish_ncols (s : State) (g : Word) (m : Memory) : (s.finish g m).ncols = s.ncols := rfl
@[simp] theorem State.finish_nparity (s : State) (g : Word) (m : Memory) : (s.finish g m).nparity = s.nparity := rfl
@[simp] theorem State.finish_colshift (s : State) (g : Word) (m : Memory) : (s.finish g m).colshift = s.colshift := rfl
@[simp] theorem State.finish_tgt0 (s : State) (g : Word) (m : Memory) : (s.finish g m).tgt0 = s.tgt0 := rfl
@[simp] theorem State.finish_tgt1 (s : State) (g : Word) (m : Memory) : (s.finish g m).tgt1 = s.tgt1 := rfl
@[simp] theorem State.finish_tgt2 (s : State) (g : Word) (m : Memory) : (s.finish g m).tgt2 = s.tgt2 := rfl
@[simp] theorem State.finish_gfa (s : State) (g : Word) (m : Memory) : (s.finish g m).gfa = s.gfa := rfl
@[simp] theorem State.finish_gfb (s : State) (g : Word) (m : Memory) : (s.finish g m).gfb = s.gfb := rfl
@[simp] theorem State.finish_gfr (s : State) (g : Word) (m : Memory) : (s.finish g m).gfr = g := rfl
@[simp] theorem State.finish_cols (s : State) (g : Word) (m : Memory) : (s.finish g m).cols = s.cols := rfl
@[simp] theorem State.finish_latched (s : State) (g : Word) (m : Memory) : (s.finish g m).latched = none := rfl
@[simp] theorem State.finish_vfile (s : State) (g : Word) (m : Memory) : (s.finish g m).vfile = s.freshVfile := rfl
@[simp] theorem State.finish_mem (s : State) (g : Word) (m : Memory) : (s.finish g m).mem = m := rfl
@[simp] theorem State.finish_held (s : State) (g : Word) (m : Memory) : (s.finish g m).held = s.held := rfl
@[simp] theorem State.finish_inputs (s : State) (g : Word) (m : Memory) : (s.finish g m).inputs = s.inputs := rfl
@[simp] theorem State.finish_rdata (s : State) (g : Word) (m : Memory) : (s.finish g m).rdata = s.rdata := rfl
@[simp] theorem State.finish_freeCtr (s : State) (g : Word) (m : Memory) : (s.finish g m).freeCtr = s.freeCtr + 1 := rfl
@[simp] theorem State.finish_mapOf (s : State) (g : Word) (m : Memory) : (s.finish g m).mapOf = s.mapOf := rfl
@[simp] theorem State.finish_descriptor (s : State) (g : Word) (m : Memory) : (s.finish g m).descriptor = s.descriptor := rfl
@[simp] theorem State.finish_column (s : State) (g : Word) (m : Memory) (c : Nat) : (s.finish g m).column c = s.column c := rfl
@[simp] theorem State.finish_targets (s : State) (g : Word) (m : Memory) (k : Nat) : (s.finish g m).targets k = s.targets k := rfl

/-! ### Bus error -/

@[simp] theorem State.busError_platform (s : State) (a : Nat) : (s.busError a).platform = s.platform := rfl
@[simp] theorem State.busError_seq (s : State) (a : Nat) : (s.busError a).seq = .fault := rfl
@[simp] theorem State.busError_done (s : State) (a : Nat) : (s.busError a).done = s.done := rfl
@[simp] theorem State.busError_vctx (s : State) (a : Nat) : (s.busError a).vctx = false := rfl
@[simp] theorem State.busError_kind (s : State) (a : Nat) : (s.busError a).kind = s.kind := rfl
@[simp] theorem State.busError_used (s : State) (a : Nat) : (s.busError a).used = s.used := rfl
@[simp] theorem State.busError_fcode (s : State) (a : Nat) : (s.busError a).fcode = some .busError := rfl
@[simp] theorem State.busError_finfo (s : State) (a : Nat) : (s.busError a).finfo = BitVec.ofNat 64 a := rfl
@[simp] theorem State.busError_ncols (s : State) (a : Nat) : (s.busError a).ncols = s.ncols := rfl
@[simp] theorem State.busError_nparity (s : State) (a : Nat) : (s.busError a).nparity = s.nparity := rfl
@[simp] theorem State.busError_colshift (s : State) (a : Nat) : (s.busError a).colshift = s.colshift := rfl
@[simp] theorem State.busError_tgt0 (s : State) (a : Nat) : (s.busError a).tgt0 = s.tgt0 := rfl
@[simp] theorem State.busError_tgt1 (s : State) (a : Nat) : (s.busError a).tgt1 = s.tgt1 := rfl
@[simp] theorem State.busError_tgt2 (s : State) (a : Nat) : (s.busError a).tgt2 = s.tgt2 := rfl
@[simp] theorem State.busError_gfa (s : State) (a : Nat) : (s.busError a).gfa = s.gfa := rfl
@[simp] theorem State.busError_gfb (s : State) (a : Nat) : (s.busError a).gfb = s.gfb := rfl
@[simp] theorem State.busError_gfr (s : State) (a : Nat) : (s.busError a).gfr = s.gfr := rfl
@[simp] theorem State.busError_cols (s : State) (a : Nat) : (s.busError a).cols = s.cols := rfl
@[simp] theorem State.busError_latched (s : State) (a : Nat) : (s.busError a).latched = none := rfl
@[simp] theorem State.busError_vfile (s : State) (a : Nat) : (s.busError a).vfile = s.freshVfile := rfl
@[simp] theorem State.busError_mem (s : State) (a : Nat) : (s.busError a).mem = s.scrambled := rfl
@[simp] theorem State.busError_held (s : State) (a : Nat) : (s.busError a).held = s.held := rfl
@[simp] theorem State.busError_inputs (s : State) (a : Nat) : (s.busError a).inputs = s.inputs := rfl
@[simp] theorem State.busError_rdata (s : State) (a : Nat) : (s.busError a).rdata = s.rdata := rfl
@[simp] theorem State.busError_freeCtr (s : State) (a : Nat) : (s.busError a).freeCtr = s.freeCtr + 1 := rfl
@[simp] theorem State.busError_mapOf (s : State) (a : Nat) : (s.busError a).mapOf = s.mapOf := rfl
@[simp] theorem State.busError_descriptor (s : State) (a : Nat) : (s.busError a).descriptor = s.descriptor := rfl
@[simp] theorem State.busError_column (s : State) (a : Nat) (c : Nat) : (s.busError a).column c = s.column c := rfl
@[simp] theorem State.busError_targets (s : State) (a : Nat) (k : Nat) : (s.busError a).targets k = s.targets k := rfl

/-! ### Soft reset -/

@[simp] theorem State.softReset_platform (s : State) : (s.softReset).platform = s.platform := rfl
@[simp] theorem State.softReset_seq (s : State) : (s.softReset).seq = .idle := rfl
@[simp] theorem State.softReset_done (s : State) : (s.softReset).done = false := rfl
@[simp] theorem State.softReset_vctx (s : State) : (s.softReset).vctx = false := rfl
@[simp] theorem State.softReset_kind (s : State) : (s.softReset).kind = none := rfl
@[simp] theorem State.softReset_used (s : State) : (s.softReset).used = 0 := rfl
@[simp] theorem State.softReset_fcode (s : State) : (s.softReset).fcode = none := rfl
@[simp] theorem State.softReset_finfo (s : State) : (s.softReset).finfo = 0 := rfl
@[simp] theorem State.softReset_ncols (s : State) : (s.softReset).ncols = s.ncols := rfl
@[simp] theorem State.softReset_nparity (s : State) : (s.softReset).nparity = s.nparity := rfl
@[simp] theorem State.softReset_colshift (s : State) : (s.softReset).colshift = s.colshift := rfl
@[simp] theorem State.softReset_tgt0 (s : State) : (s.softReset).tgt0 = s.tgt0 := rfl
@[simp] theorem State.softReset_tgt1 (s : State) : (s.softReset).tgt1 = s.tgt1 := rfl
@[simp] theorem State.softReset_tgt2 (s : State) : (s.softReset).tgt2 = s.tgt2 := rfl
@[simp] theorem State.softReset_gfa (s : State) : (s.softReset).gfa = s.gfa := rfl
@[simp] theorem State.softReset_gfb (s : State) : (s.softReset).gfb = s.gfb := rfl
@[simp] theorem State.softReset_gfr (s : State) : (s.softReset).gfr = 0 := rfl
@[simp] theorem State.softReset_cols (s : State) : (s.softReset).cols = s.cols := rfl
@[simp] theorem State.softReset_latched (s : State) : (s.softReset).latched = none := rfl
@[simp] theorem State.softReset_vfile (s : State) : (s.softReset).vfile = s.freshVfile := rfl
@[simp] theorem State.softReset_mem (s : State) : (s.softReset).mem = s.scrambled := rfl
@[simp] theorem State.softReset_held (s : State) : (s.softReset).held = s.held := rfl
@[simp] theorem State.softReset_inputs (s : State) : (s.softReset).inputs = s.inputs := rfl
@[simp] theorem State.softReset_rdata (s : State) : (s.softReset).rdata = s.rdata := rfl
@[simp] theorem State.softReset_freeCtr (s : State) : (s.softReset).freeCtr = s.freeCtr + 1 := rfl
@[simp] theorem State.softReset_mapOf (s : State) : (s.softReset).mapOf = s.mapOf := rfl
@[simp] theorem State.softReset_descriptor (s : State) : (s.softReset).descriptor = s.descriptor := rfl
@[simp] theorem State.softReset_column (s : State) (c : Nat) : (s.softReset).column c = s.column c := rfl
@[simp] theorem State.softReset_targets (s : State) (k : Nat) : (s.softReset).targets k = s.targets k := rfl

/-! ### Hardware reset -/

@[simp] theorem State.hardReset_platform (s : State) : (s.hardReset).platform = s.platform := rfl
@[simp] theorem State.hardReset_seq (s : State) : (s.hardReset).seq = .idle := rfl
@[simp] theorem State.hardReset_done (s : State) : (s.hardReset).done = false := rfl
@[simp] theorem State.hardReset_vctx (s : State) : (s.hardReset).vctx = false := rfl
@[simp] theorem State.hardReset_kind (s : State) : (s.hardReset).kind = none := rfl
@[simp] theorem State.hardReset_used (s : State) : (s.hardReset).used = 0 := rfl
@[simp] theorem State.hardReset_fcode (s : State) : (s.hardReset).fcode = none := rfl
@[simp] theorem State.hardReset_finfo (s : State) : (s.hardReset).finfo = 0 := rfl
@[simp] theorem State.hardReset_ncols (s : State) : (s.hardReset).ncols = 0 := rfl
@[simp] theorem State.hardReset_nparity (s : State) : (s.hardReset).nparity = 0 := rfl
@[simp] theorem State.hardReset_colshift (s : State) : (s.hardReset).colshift = 0 := rfl
@[simp] theorem State.hardReset_tgt0 (s : State) : (s.hardReset).tgt0 = 0 := rfl
@[simp] theorem State.hardReset_tgt1 (s : State) : (s.hardReset).tgt1 = 0 := rfl
@[simp] theorem State.hardReset_tgt2 (s : State) : (s.hardReset).tgt2 = 0 := rfl
@[simp] theorem State.hardReset_gfa (s : State) : (s.hardReset).gfa = 0 := rfl
@[simp] theorem State.hardReset_gfb (s : State) : (s.hardReset).gfb = 0 := rfl
@[simp] theorem State.hardReset_gfr (s : State) : (s.hardReset).gfr = 0 := rfl
@[simp] theorem State.hardReset_cols (s : State) : (s.hardReset).cols = freeTable s.freeCtr := rfl
@[simp] theorem State.hardReset_latched (s : State) : (s.hardReset).latched = none := rfl
@[simp] theorem State.hardReset_vfile (s : State) : (s.hardReset).vfile = s.freshVfile := rfl
@[simp] theorem State.hardReset_mem (s : State) : (s.hardReset).mem = s.scrambled := rfl
@[simp] theorem State.hardReset_held (s : State) : (s.hardReset).held = s.held := rfl
@[simp] theorem State.hardReset_inputs (s : State) : (s.hardReset).inputs = s.inputs := rfl
@[simp] theorem State.hardReset_rdata (s : State) : (s.hardReset).rdata = s.rdata := rfl
@[simp] theorem State.hardReset_freeCtr (s : State) : (s.hardReset).freeCtr = s.freeCtr + 1 := rfl

/-! ### Acknowledge -/

@[simp] theorem State.ack_platform (s : State) : (s.ack).platform = s.platform := rfl
@[simp] theorem State.ack_seq (s : State) : (s.ack).seq = s.seq := rfl
@[simp] theorem State.ack_done (s : State) : (s.ack).done = false := rfl
@[simp] theorem State.ack_vctx (s : State) : (s.ack).vctx = s.vctx := rfl
@[simp] theorem State.ack_kind (s : State) : (s.ack).kind = s.kind := rfl
@[simp] theorem State.ack_used (s : State) : (s.ack).used = s.used := rfl
@[simp] theorem State.ack_fcode (s : State) : (s.ack).fcode = s.fcode := rfl
@[simp] theorem State.ack_finfo (s : State) : (s.ack).finfo = s.finfo := rfl
@[simp] theorem State.ack_ncols (s : State) : (s.ack).ncols = s.ncols := rfl
@[simp] theorem State.ack_nparity (s : State) : (s.ack).nparity = s.nparity := rfl
@[simp] theorem State.ack_colshift (s : State) : (s.ack).colshift = s.colshift := rfl
@[simp] theorem State.ack_tgt0 (s : State) : (s.ack).tgt0 = s.tgt0 := rfl
@[simp] theorem State.ack_tgt1 (s : State) : (s.ack).tgt1 = s.tgt1 := rfl
@[simp] theorem State.ack_tgt2 (s : State) : (s.ack).tgt2 = s.tgt2 := rfl
@[simp] theorem State.ack_gfa (s : State) : (s.ack).gfa = s.gfa := rfl
@[simp] theorem State.ack_gfb (s : State) : (s.ack).gfb = s.gfb := rfl
@[simp] theorem State.ack_gfr (s : State) : (s.ack).gfr = s.gfr := rfl
@[simp] theorem State.ack_cols (s : State) : (s.ack).cols = s.cols := rfl
@[simp] theorem State.ack_latched (s : State) : (s.ack).latched = s.latched := rfl
@[simp] theorem State.ack_vfile (s : State) : (s.ack).vfile = s.vfile := rfl
@[simp] theorem State.ack_mem (s : State) : (s.ack).mem = s.mem := rfl
@[simp] theorem State.ack_held (s : State) : (s.ack).held = s.held := rfl
@[simp] theorem State.ack_inputs (s : State) : (s.ack).inputs = s.inputs := rfl
@[simp] theorem State.ack_rdata (s : State) : (s.ack).rdata = s.rdata := rfl
@[simp] theorem State.ack_freeCtr (s : State) : (s.ack).freeCtr = s.freeCtr := rfl
@[simp] theorem State.ack_mapOf (s : State) : (s.ack).mapOf = s.mapOf := rfl
@[simp] theorem State.ack_descriptor (s : State) : (s.ack).descriptor = s.descriptor := rfl
@[simp] theorem State.ack_column (s : State) (c : Nat) : (s.ack).column c = s.column c := rfl
@[simp] theorem State.ack_targets (s : State) (k : Nat) : (s.ack).targets k = s.targets k := rfl

/-! ### A held write -/

@[simp] theorem State.hold_platform (s : State) (r : Nat) (v : Word) : (s.hold r v).platform = s.platform := rfl
@[simp] theorem State.hold_seq (s : State) (r : Nat) (v : Word) : (s.hold r v).seq = s.seq := rfl
@[simp] theorem State.hold_done (s : State) (r : Nat) (v : Word) : (s.hold r v).done = s.done := rfl
@[simp] theorem State.hold_vctx (s : State) (r : Nat) (v : Word) : (s.hold r v).vctx = s.vctx := rfl
@[simp] theorem State.hold_kind (s : State) (r : Nat) (v : Word) : (s.hold r v).kind = s.kind := rfl
@[simp] theorem State.hold_used (s : State) (r : Nat) (v : Word) : (s.hold r v).used = s.used := rfl
@[simp] theorem State.hold_fcode (s : State) (r : Nat) (v : Word) : (s.hold r v).fcode = s.fcode := rfl
@[simp] theorem State.hold_finfo (s : State) (r : Nat) (v : Word) : (s.hold r v).finfo = s.finfo := rfl
@[simp] theorem State.hold_ncols (s : State) (r : Nat) (v : Word) : (s.hold r v).ncols = s.ncols := rfl
@[simp] theorem State.hold_nparity (s : State) (r : Nat) (v : Word) : (s.hold r v).nparity = s.nparity := rfl
@[simp] theorem State.hold_colshift (s : State) (r : Nat) (v : Word) : (s.hold r v).colshift = s.colshift := rfl
@[simp] theorem State.hold_tgt0 (s : State) (r : Nat) (v : Word) : (s.hold r v).tgt0 = s.tgt0 := rfl
@[simp] theorem State.hold_tgt1 (s : State) (r : Nat) (v : Word) : (s.hold r v).tgt1 = s.tgt1 := rfl
@[simp] theorem State.hold_tgt2 (s : State) (r : Nat) (v : Word) : (s.hold r v).tgt2 = s.tgt2 := rfl
@[simp] theorem State.hold_gfa (s : State) (r : Nat) (v : Word) : (s.hold r v).gfa = s.gfa := rfl
@[simp] theorem State.hold_gfb (s : State) (r : Nat) (v : Word) : (s.hold r v).gfb = s.gfb := rfl
@[simp] theorem State.hold_gfr (s : State) (r : Nat) (v : Word) : (s.hold r v).gfr = s.gfr := rfl
@[simp] theorem State.hold_cols (s : State) (r : Nat) (v : Word) : (s.hold r v).cols = s.cols := rfl
@[simp] theorem State.hold_latched (s : State) (r : Nat) (v : Word) : (s.hold r v).latched = s.latched := rfl
@[simp] theorem State.hold_vfile (s : State) (r : Nat) (v : Word) : (s.hold r v).vfile = s.vfile := rfl
@[simp] theorem State.hold_mem (s : State) (r : Nat) (v : Word) : (s.hold r v).mem = s.mem := rfl
@[simp] theorem State.hold_held (s : State) (r : Nat) (v : Word) : (s.hold r v).held = s.held ++ [(r, v)] := rfl
@[simp] theorem State.hold_inputs (s : State) (r : Nat) (v : Word) : (s.hold r v).inputs = s.inputs := rfl
@[simp] theorem State.hold_rdata (s : State) (r : Nat) (v : Word) : (s.hold r v).rdata = s.rdata := rfl
@[simp] theorem State.hold_freeCtr (s : State) (r : Nat) (v : Word) : (s.hold r v).freeCtr = s.freeCtr := rfl
@[simp] theorem State.hold_mapOf (s : State) (r : Nat) (v : Word) : (s.hold r v).mapOf = s.mapOf := rfl
@[simp] theorem State.hold_descriptor (s : State) (r : Nat) (v : Word) : (s.hold r v).descriptor = s.descriptor := rfl
@[simp] theorem State.hold_column (s : State) (r : Nat) (v : Word) (c : Nat) : (s.hold r v).column c = s.column c := rfl
@[simp] theorem State.hold_targets (s : State) (r : Nat) (v : Word) (k : Nat) : (s.hold r v).targets k = s.targets k := rfl

/-! ### A lane register -/

@[simp] theorem State.setLanes_platform (s : State) (r : Nat) (l : List Byte) : (s.setLanes r l).platform = s.platform := rfl
@[simp] theorem State.setLanes_seq (s : State) (r : Nat) (l : List Byte) : (s.setLanes r l).seq = s.seq := rfl
@[simp] theorem State.setLanes_done (s : State) (r : Nat) (l : List Byte) : (s.setLanes r l).done = s.done := rfl
@[simp] theorem State.setLanes_vctx (s : State) (r : Nat) (l : List Byte) : (s.setLanes r l).vctx = s.vctx := rfl
@[simp] theorem State.setLanes_kind (s : State) (r : Nat) (l : List Byte) : (s.setLanes r l).kind = s.kind := rfl
@[simp] theorem State.setLanes_used (s : State) (r : Nat) (l : List Byte) : (s.setLanes r l).used = s.used := rfl
@[simp] theorem State.setLanes_fcode (s : State) (r : Nat) (l : List Byte) : (s.setLanes r l).fcode = s.fcode := rfl
@[simp] theorem State.setLanes_finfo (s : State) (r : Nat) (l : List Byte) : (s.setLanes r l).finfo = s.finfo := rfl
@[simp] theorem State.setLanes_ncols (s : State) (r : Nat) (l : List Byte) : (s.setLanes r l).ncols = s.ncols := rfl
@[simp] theorem State.setLanes_nparity (s : State) (r : Nat) (l : List Byte) : (s.setLanes r l).nparity = s.nparity := rfl
@[simp] theorem State.setLanes_colshift (s : State) (r : Nat) (l : List Byte) : (s.setLanes r l).colshift = s.colshift := rfl
@[simp] theorem State.setLanes_tgt0 (s : State) (r : Nat) (l : List Byte) : (s.setLanes r l).tgt0 = s.tgt0 := rfl
@[simp] theorem State.setLanes_tgt1 (s : State) (r : Nat) (l : List Byte) : (s.setLanes r l).tgt1 = s.tgt1 := rfl
@[simp] theorem State.setLanes_tgt2 (s : State) (r : Nat) (l : List Byte) : (s.setLanes r l).tgt2 = s.tgt2 := rfl
@[simp] theorem State.setLanes_gfa (s : State) (r : Nat) (l : List Byte) : (s.setLanes r l).gfa = s.gfa := rfl
@[simp] theorem State.setLanes_gfb (s : State) (r : Nat) (l : List Byte) : (s.setLanes r l).gfb = s.gfb := rfl
@[simp] theorem State.setLanes_gfr (s : State) (r : Nat) (l : List Byte) : (s.setLanes r l).gfr = s.gfr := rfl
@[simp] theorem State.setLanes_cols (s : State) (r : Nat) (l : List Byte) : (s.setLanes r l).cols = s.cols := rfl
@[simp] theorem State.setLanes_latched (s : State) (r : Nat) (l : List Byte) : (s.setLanes r l).latched = s.latched := rfl
@[simp] theorem State.setLanes_vfile (s : State) (r : Nat) (l : List Byte) : (s.setLanes r l).vfile = s.vfile.set r l := rfl
@[simp] theorem State.setLanes_mem (s : State) (r : Nat) (l : List Byte) : (s.setLanes r l).mem = s.mem := rfl
@[simp] theorem State.setLanes_held (s : State) (r : Nat) (l : List Byte) : (s.setLanes r l).held = s.held := rfl
@[simp] theorem State.setLanes_inputs (s : State) (r : Nat) (l : List Byte) : (s.setLanes r l).inputs = s.inputs := rfl
@[simp] theorem State.setLanes_rdata (s : State) (r : Nat) (l : List Byte) : (s.setLanes r l).rdata = s.rdata := rfl
@[simp] theorem State.setLanes_freeCtr (s : State) (r : Nat) (l : List Byte) : (s.setLanes r l).freeCtr = s.freeCtr := rfl
@[simp] theorem State.setLanes_mapOf (s : State) (r : Nat) (l : List Byte) : (s.setLanes r l).mapOf = s.mapOf := rfl
@[simp] theorem State.setLanes_descriptor (s : State) (r : Nat) (l : List Byte) : (s.setLanes r l).descriptor = s.descriptor := rfl
@[simp] theorem State.setLanes_column (s : State) (r : Nat) (l : List Byte) (c : Nat) : (s.setLanes r l).column c = s.column c := rfl
@[simp] theorem State.setLanes_targets (s : State) (r : Nat) (l : List Byte) (k : Nat) : (s.setLanes r l).targets k = s.targets k := rfl

/-! ### A host read -/

@[simp] theorem hostRead_platform (r : Nat) (s : State) : (hostRead r s).platform = s.platform := rfl
@[simp] theorem hostRead_seq (r : Nat) (s : State) : (hostRead r s).seq = s.seq := rfl
@[simp] theorem hostRead_done (r : Nat) (s : State) : (hostRead r s).done = s.done := rfl
@[simp] theorem hostRead_vctx (r : Nat) (s : State) : (hostRead r s).vctx = s.vctx := rfl
@[simp] theorem hostRead_kind (r : Nat) (s : State) : (hostRead r s).kind = s.kind := rfl
@[simp] theorem hostRead_used (r : Nat) (s : State) : (hostRead r s).used = s.used := rfl
@[simp] theorem hostRead_fcode (r : Nat) (s : State) : (hostRead r s).fcode = s.fcode := rfl
@[simp] theorem hostRead_finfo (r : Nat) (s : State) : (hostRead r s).finfo = s.finfo := rfl
@[simp] theorem hostRead_ncols (r : Nat) (s : State) : (hostRead r s).ncols = s.ncols := rfl
@[simp] theorem hostRead_nparity (r : Nat) (s : State) : (hostRead r s).nparity = s.nparity := rfl
@[simp] theorem hostRead_colshift (r : Nat) (s : State) : (hostRead r s).colshift = s.colshift := rfl
@[simp] theorem hostRead_tgt0 (r : Nat) (s : State) : (hostRead r s).tgt0 = s.tgt0 := rfl
@[simp] theorem hostRead_tgt1 (r : Nat) (s : State) : (hostRead r s).tgt1 = s.tgt1 := rfl
@[simp] theorem hostRead_tgt2 (r : Nat) (s : State) : (hostRead r s).tgt2 = s.tgt2 := rfl
@[simp] theorem hostRead_gfa (r : Nat) (s : State) : (hostRead r s).gfa = s.gfa := rfl
@[simp] theorem hostRead_gfb (r : Nat) (s : State) : (hostRead r s).gfb = s.gfb := rfl
@[simp] theorem hostRead_gfr (r : Nat) (s : State) : (hostRead r s).gfr = s.gfr := rfl
@[simp] theorem hostRead_cols (r : Nat) (s : State) : (hostRead r s).cols = s.cols := rfl
@[simp] theorem hostRead_latched (r : Nat) (s : State) : (hostRead r s).latched = s.latched := rfl
@[simp] theorem hostRead_vfile (r : Nat) (s : State) : (hostRead r s).vfile = s.vfile := rfl
@[simp] theorem hostRead_mem (r : Nat) (s : State) : (hostRead r s).mem = s.mem := rfl
@[simp] theorem hostRead_held (r : Nat) (s : State) : (hostRead r s).held = s.held := rfl
@[simp] theorem hostRead_inputs (r : Nat) (s : State) : (hostRead r s).inputs = s.inputs := rfl
@[simp] theorem hostRead_rdata (r : Nat) (s : State) : (hostRead r s).rdata = s.readReg (Reg.ofNumber r) := rfl
@[simp] theorem hostRead_freeCtr (r : Nat) (s : State) : (hostRead r s).freeCtr = s.freeCtr := rfl
@[simp] theorem hostRead_mapOf (r : Nat) (s : State) : (hostRead r s).mapOf = s.mapOf := rfl
@[simp] theorem hostRead_descriptor (r : Nat) (s : State) : (hostRead r s).descriptor = s.descriptor := rfl
@[simp] theorem hostRead_column (r : Nat) (s : State) (c : Nat) : (hostRead r s).column c = s.column c := rfl
@[simp] theorem hostRead_targets (r : Nat) (s : State) (k : Nat) : (hostRead r s).targets k = s.targets k := rfl

/-! ### The host's queue -/

@[simp] theorem State.withInputs_platform (s : State) (xs : List HostAction) : (s.withInputs xs).platform = s.platform := rfl
@[simp] theorem State.withInputs_seq (s : State) (xs : List HostAction) : (s.withInputs xs).seq = s.seq := rfl
@[simp] theorem State.withInputs_done (s : State) (xs : List HostAction) : (s.withInputs xs).done = s.done := rfl
@[simp] theorem State.withInputs_vctx (s : State) (xs : List HostAction) : (s.withInputs xs).vctx = s.vctx := rfl
@[simp] theorem State.withInputs_kind (s : State) (xs : List HostAction) : (s.withInputs xs).kind = s.kind := rfl
@[simp] theorem State.withInputs_used (s : State) (xs : List HostAction) : (s.withInputs xs).used = s.used := rfl
@[simp] theorem State.withInputs_fcode (s : State) (xs : List HostAction) : (s.withInputs xs).fcode = s.fcode := rfl
@[simp] theorem State.withInputs_finfo (s : State) (xs : List HostAction) : (s.withInputs xs).finfo = s.finfo := rfl
@[simp] theorem State.withInputs_ncols (s : State) (xs : List HostAction) : (s.withInputs xs).ncols = s.ncols := rfl
@[simp] theorem State.withInputs_nparity (s : State) (xs : List HostAction) : (s.withInputs xs).nparity = s.nparity := rfl
@[simp] theorem State.withInputs_colshift (s : State) (xs : List HostAction) : (s.withInputs xs).colshift = s.colshift := rfl
@[simp] theorem State.withInputs_tgt0 (s : State) (xs : List HostAction) : (s.withInputs xs).tgt0 = s.tgt0 := rfl
@[simp] theorem State.withInputs_tgt1 (s : State) (xs : List HostAction) : (s.withInputs xs).tgt1 = s.tgt1 := rfl
@[simp] theorem State.withInputs_tgt2 (s : State) (xs : List HostAction) : (s.withInputs xs).tgt2 = s.tgt2 := rfl
@[simp] theorem State.withInputs_gfa (s : State) (xs : List HostAction) : (s.withInputs xs).gfa = s.gfa := rfl
@[simp] theorem State.withInputs_gfb (s : State) (xs : List HostAction) : (s.withInputs xs).gfb = s.gfb := rfl
@[simp] theorem State.withInputs_gfr (s : State) (xs : List HostAction) : (s.withInputs xs).gfr = s.gfr := rfl
@[simp] theorem State.withInputs_cols (s : State) (xs : List HostAction) : (s.withInputs xs).cols = s.cols := rfl
@[simp] theorem State.withInputs_latched (s : State) (xs : List HostAction) : (s.withInputs xs).latched = s.latched := rfl
@[simp] theorem State.withInputs_vfile (s : State) (xs : List HostAction) : (s.withInputs xs).vfile = s.vfile := rfl
@[simp] theorem State.withInputs_mem (s : State) (xs : List HostAction) : (s.withInputs xs).mem = s.mem := rfl
@[simp] theorem State.withInputs_held (s : State) (xs : List HostAction) : (s.withInputs xs).held = s.held := rfl
@[simp] theorem State.withInputs_inputs (s : State) (xs : List HostAction) : (s.withInputs xs).inputs = xs := rfl
@[simp] theorem State.withInputs_rdata (s : State) (xs : List HostAction) : (s.withInputs xs).rdata = s.rdata := rfl
@[simp] theorem State.withInputs_freeCtr (s : State) (xs : List HostAction) : (s.withInputs xs).freeCtr = s.freeCtr := rfl
@[simp] theorem State.withInputs_mapOf (s : State) (xs : List HostAction) : (s.withInputs xs).mapOf = s.mapOf := rfl
@[simp] theorem State.withInputs_descriptor (s : State) (xs : List HostAction) : (s.withInputs xs).descriptor = s.descriptor := rfl
@[simp] theorem State.withInputs_column (s : State) (xs : List HostAction) (c : Nat) : (s.withInputs xs).column c = s.column c := rfl
@[simp] theorem State.withInputs_targets (s : State) (xs : List HostAction) (k : Nat) : (s.withInputs xs).targets k = s.targets k := rfl

/-! ### The held writes -/

@[simp] theorem State.withHeld_platform (s : State) (h : List (Nat × Word)) : (s.withHeld h).platform = s.platform := rfl
@[simp] theorem State.withHeld_seq (s : State) (h : List (Nat × Word)) : (s.withHeld h).seq = s.seq := rfl
@[simp] theorem State.withHeld_done (s : State) (h : List (Nat × Word)) : (s.withHeld h).done = s.done := rfl
@[simp] theorem State.withHeld_vctx (s : State) (h : List (Nat × Word)) : (s.withHeld h).vctx = s.vctx := rfl
@[simp] theorem State.withHeld_kind (s : State) (h : List (Nat × Word)) : (s.withHeld h).kind = s.kind := rfl
@[simp] theorem State.withHeld_used (s : State) (h : List (Nat × Word)) : (s.withHeld h).used = s.used := rfl
@[simp] theorem State.withHeld_fcode (s : State) (h : List (Nat × Word)) : (s.withHeld h).fcode = s.fcode := rfl
@[simp] theorem State.withHeld_finfo (s : State) (h : List (Nat × Word)) : (s.withHeld h).finfo = s.finfo := rfl
@[simp] theorem State.withHeld_ncols (s : State) (h : List (Nat × Word)) : (s.withHeld h).ncols = s.ncols := rfl
@[simp] theorem State.withHeld_nparity (s : State) (h : List (Nat × Word)) : (s.withHeld h).nparity = s.nparity := rfl
@[simp] theorem State.withHeld_colshift (s : State) (h : List (Nat × Word)) : (s.withHeld h).colshift = s.colshift := rfl
@[simp] theorem State.withHeld_tgt0 (s : State) (h : List (Nat × Word)) : (s.withHeld h).tgt0 = s.tgt0 := rfl
@[simp] theorem State.withHeld_tgt1 (s : State) (h : List (Nat × Word)) : (s.withHeld h).tgt1 = s.tgt1 := rfl
@[simp] theorem State.withHeld_tgt2 (s : State) (h : List (Nat × Word)) : (s.withHeld h).tgt2 = s.tgt2 := rfl
@[simp] theorem State.withHeld_gfa (s : State) (h : List (Nat × Word)) : (s.withHeld h).gfa = s.gfa := rfl
@[simp] theorem State.withHeld_gfb (s : State) (h : List (Nat × Word)) : (s.withHeld h).gfb = s.gfb := rfl
@[simp] theorem State.withHeld_gfr (s : State) (h : List (Nat × Word)) : (s.withHeld h).gfr = s.gfr := rfl
@[simp] theorem State.withHeld_cols (s : State) (h : List (Nat × Word)) : (s.withHeld h).cols = s.cols := rfl
@[simp] theorem State.withHeld_latched (s : State) (h : List (Nat × Word)) : (s.withHeld h).latched = s.latched := rfl
@[simp] theorem State.withHeld_vfile (s : State) (h : List (Nat × Word)) : (s.withHeld h).vfile = s.vfile := rfl
@[simp] theorem State.withHeld_mem (s : State) (h : List (Nat × Word)) : (s.withHeld h).mem = s.mem := rfl
@[simp] theorem State.withHeld_held (s : State) (h : List (Nat × Word)) : (s.withHeld h).held = h := rfl
@[simp] theorem State.withHeld_inputs (s : State) (h : List (Nat × Word)) : (s.withHeld h).inputs = s.inputs := rfl
@[simp] theorem State.withHeld_rdata (s : State) (h : List (Nat × Word)) : (s.withHeld h).rdata = s.rdata := rfl
@[simp] theorem State.withHeld_freeCtr (s : State) (h : List (Nat × Word)) : (s.withHeld h).freeCtr = s.freeCtr := rfl
@[simp] theorem State.withHeld_mapOf (s : State) (h : List (Nat × Word)) : (s.withHeld h).mapOf = s.mapOf := rfl
@[simp] theorem State.withHeld_descriptor (s : State) (h : List (Nat × Word)) : (s.withHeld h).descriptor = s.descriptor := rfl
@[simp] theorem State.withHeld_column (s : State) (h : List (Nat × Word)) (c : Nat) : (s.withHeld h).column c = s.column c := rfl
@[simp] theorem State.withHeld_targets (s : State) (h : List (Nat × Word)) (k : Nat) : (s.withHeld h).targets k = s.targets k := rfl

/-! ### A store by another agent -/

@[simp] theorem State.storeByte_platform (s : State) (a : Nat) (b : Byte) : (s.storeByte a b).platform = s.platform := rfl
@[simp] theorem State.storeByte_seq (s : State) (a : Nat) (b : Byte) : (s.storeByte a b).seq = s.seq := rfl
@[simp] theorem State.storeByte_done (s : State) (a : Nat) (b : Byte) : (s.storeByte a b).done = s.done := rfl
@[simp] theorem State.storeByte_vctx (s : State) (a : Nat) (b : Byte) : (s.storeByte a b).vctx = s.vctx := rfl
@[simp] theorem State.storeByte_kind (s : State) (a : Nat) (b : Byte) : (s.storeByte a b).kind = s.kind := rfl
@[simp] theorem State.storeByte_used (s : State) (a : Nat) (b : Byte) : (s.storeByte a b).used = s.used := rfl
@[simp] theorem State.storeByte_fcode (s : State) (a : Nat) (b : Byte) : (s.storeByte a b).fcode = s.fcode := rfl
@[simp] theorem State.storeByte_finfo (s : State) (a : Nat) (b : Byte) : (s.storeByte a b).finfo = s.finfo := rfl
@[simp] theorem State.storeByte_ncols (s : State) (a : Nat) (b : Byte) : (s.storeByte a b).ncols = s.ncols := rfl
@[simp] theorem State.storeByte_nparity (s : State) (a : Nat) (b : Byte) : (s.storeByte a b).nparity = s.nparity := rfl
@[simp] theorem State.storeByte_colshift (s : State) (a : Nat) (b : Byte) : (s.storeByte a b).colshift = s.colshift := rfl
@[simp] theorem State.storeByte_tgt0 (s : State) (a : Nat) (b : Byte) : (s.storeByte a b).tgt0 = s.tgt0 := rfl
@[simp] theorem State.storeByte_tgt1 (s : State) (a : Nat) (b : Byte) : (s.storeByte a b).tgt1 = s.tgt1 := rfl
@[simp] theorem State.storeByte_tgt2 (s : State) (a : Nat) (b : Byte) : (s.storeByte a b).tgt2 = s.tgt2 := rfl
@[simp] theorem State.storeByte_gfa (s : State) (a : Nat) (b : Byte) : (s.storeByte a b).gfa = s.gfa := rfl
@[simp] theorem State.storeByte_gfb (s : State) (a : Nat) (b : Byte) : (s.storeByte a b).gfb = s.gfb := rfl
@[simp] theorem State.storeByte_gfr (s : State) (a : Nat) (b : Byte) : (s.storeByte a b).gfr = s.gfr := rfl
@[simp] theorem State.storeByte_cols (s : State) (a : Nat) (b : Byte) : (s.storeByte a b).cols = s.cols := rfl
@[simp] theorem State.storeByte_latched (s : State) (a : Nat) (b : Byte) : (s.storeByte a b).latched = s.latched.map fun l => { l with raced := l.raced || s.touches a } := rfl
@[simp] theorem State.storeByte_vfile (s : State) (a : Nat) (b : Byte) : (s.storeByte a b).vfile = s.vfile := rfl
@[simp] theorem State.storeByte_mem (s : State) (a : Nat) (b : Byte) : (s.storeByte a b).mem = s.mem.write a b := rfl
@[simp] theorem State.storeByte_held (s : State) (a : Nat) (b : Byte) : (s.storeByte a b).held = s.held := rfl
@[simp] theorem State.storeByte_inputs (s : State) (a : Nat) (b : Byte) : (s.storeByte a b).inputs = s.inputs := rfl
@[simp] theorem State.storeByte_rdata (s : State) (a : Nat) (b : Byte) : (s.storeByte a b).rdata = s.rdata := rfl
@[simp] theorem State.storeByte_freeCtr (s : State) (a : Nat) (b : Byte) : (s.storeByte a b).freeCtr = s.freeCtr := rfl
@[simp] theorem State.storeByte_mapOf (s : State) (a : Nat) (b : Byte) : (s.storeByte a b).mapOf = s.mapOf := rfl
@[simp] theorem State.storeByte_descriptor (s : State) (a : Nat) (b : Byte) : (s.storeByte a b).descriptor = s.descriptor := rfl
@[simp] theorem State.storeByte_column (s : State) (a : Nat) (b : Byte) (c : Nat) : (s.storeByte a b).column c = s.column c := rfl
@[simp] theorem State.storeByte_targets (s : State) (a : Nat) (b : Byte) (k : Nat) : (s.storeByte a b).targets k = s.targets k := rfl

end Sys2Proof.Machine
end

