-- ==== Sys2Proof/Laws/Ops.lean ====
section
/-! SUPPORT. What the shared operations can do, said once: issue, the end of a command, a command's transitions. Later proofs
cite these lemmas and do not unfold the operations. -/

namespace Sys2Proof.Machine

/-! ### Issue -/

/-- The issue of a map command raises one fault or latches the selected kind; nothing else. -/
theorem issueMap_cases (i : Instr) (bk : Nat) (select : State → Except Reject Kind) (s : State) :
    (∃ r, issueMap i bk select s = s.raiseFault r) ∨
      ∃ k, checksBeforeKind bk s = none ∧ select s = .ok k ∧ checksAfterKind bk s k = none ∧
        issueMap i bk select s = s.accept (s.latch i bk k) := by
  unfold issueMap
  split
  · exact .inl ⟨_, rfl⟩
  · next hb =>
    split
    · exact .inl ⟨_, rfl⟩
    · next k hk =>
      split
      · exact .inl ⟨_, rfl⟩
      · next ha => exact .inr ⟨k, hb, hk, ha, rfl⟩

theorem issueMap_accept {i : Instr} {bk : Nat} {select : State → Except Reject Kind} {s : State} {k : Kind}
    (hb : checksBeforeKind bk s = none) (hk : select s = .ok k) (ha : checksAfterKind bk s k = none) :
    issueMap i bk select s = s.accept (s.latch i bk k) := by simp [issueMap, hb, hk, ha]

theorem issueMap_reject_before {i : Instr} {bk : Nat} {select : State → Except Reject Kind} {s : State} {r : Reject}
    (hb : checksBeforeKind bk s = some r) : issueMap i bk select s = s.raiseFault r := by simp [issueMap, hb]

theorem issueMap_reject_kind {i : Instr} {bk : Nat} {select : State → Except Reject Kind} {s : State} {r : Reject}
    (hb : checksBeforeKind bk s = none) (hk : select s = .error r) :
    issueMap i bk select s = s.raiseFault r := by simp [issueMap, hb, hk]

theorem issueMap_reject_after {i : Instr} {bk : Nat} {select : State → Except Reject Kind} {s : State} {k : Kind}
    {r : Reject} (hb : checksBeforeKind bk s = none) (hk : select s = .ok k) (ha : checksAfterKind bk s k = some r) :
    issueMap i bk select s = s.raiseFault r := by simp [issueMap, hb, hk, ha]

/-- The issue of a GF command raises BAD_OPERAND or latches the operands. -/
theorem issueGf_cases (i : Instr) (k : Kind) (s : State) :
    (∃ r, checkGfOperands s = some r ∧ issueGf i k s = s.raiseFault r) ∨
      (s.gfa.toNat < 256 ∧ s.gfb.toNat < 256 ∧ issueGf i k s = s.accept (s.latch i 0 k)) := by
  unfold issueGf
  cases h : checkGfOperands s with
  | some r => exact .inl ⟨r, rfl, rfl⟩
  | none =>
    refine .inr ⟨?_, ?_, rfl⟩ <;>
      · simp only [checkGfOperands] at h
        split at h
        · simp at h
        · split at h
          · simp at h
          · omega

/-! ### The end of a command -/

/-- The end of a map command: a bus error, free bytes after a race, or the kind's bytes. -/
theorem endPass_cases (cells : Kind → RaidzMap → List Nat → Memory → List Host.Cell) {s : State} {l : Latch}
    (h : s.latched = some l) :
    (∃ a, busFault s.platform s.freeCtr l = some a ∧ endPass cells s = s.busError a) ∨
      (busFault s.platform s.freeCtr l = none ∧ l.raced = true ∧ endPass cells s = s.finish s.gfr s.scrambled) ∨
      (busFault s.platform s.freeCtr l = none ∧ l.raced = false ∧
        endPass cells s = s.finish s.gfr (s.mem.writeAll (cells l.kind l.map l.targets s.mem))) := by
  unfold endPass
  rw [h]
  dsimp only
  split
  · next a ha => exact .inl ⟨a, ha, rfl⟩
  · next hn =>
    cases hr : l.raced
    · exact .inr (.inr ⟨hn, rfl, by simp⟩)
    · exact .inr (.inl ⟨hn, rfl, by simp⟩)

theorem endPass_none (cells : Kind → RaidzMap → List Nat → Memory → List Host.Cell) {s : State}
    (h : s.latched = none) : endPass cells s = s := by simp [endPass, h]

theorem endGf_some (op : Byte → Byte → Byte) {s : State} {l : Latch} (h : s.latched = some l) :
    endGf op s = s.finish ((op (l.gfa.setWidth 8) (l.gfb.setWidth 8)).setWidth 64) s.mem := by simp [endGf, h]

theorem endGf_none (op : Byte → Byte → Byte) {s : State} (h : s.latched = none) : endGf op s = s := by simp [endGf, h]

/-- Scrambled memory keeps the canonical form. -/
theorem scrambled_wf {s : State} (h : Memory.wf s.mem) : Memory.wf s.scrambled := by
  unfold State.scrambled
  split
  · exact h
  · exact Memory.wf_writeAll h _

/-- Scrambling touches only bytes of the ranges. -/
theorem scramble_read_other (p : Platform) (ctr : Nat) (spans : List Segment) (mem : Memory) (x : Nat)
    (h : ∀ g ∈ spans, g.contains x = false) : Memory.read (scramble p ctr spans mem) x = Memory.read mem x := by
  apply Memory.read_writeAll_other
  intro c hc hx
  obtain ⟨a, ha, rfl⟩ := List.mem_map.mp hc
  obtain ⟨g, hg, hag⟩ := List.mem_flatMap.mp (List.mem_filter.mp ha).1
  obtain ⟨o, ho, rfl⟩ := List.mem_map.mp hag
  have := h g hg
  simp only [Segment.contains, decide_eq_false_iff_not] at this
  have ho' := List.mem_range.mp ho
  dsimp at hx
  omega

/-! ### A command's transitions -/

theorem mapCommand_idle {i : Instr} {bk : Nat} {select : State → Except Reject Kind}
    {cells : Kind → RaidzMap → List Nat → Memory → List Host.Cell} {s : State} (h : s.seq = .idle) :
    mapCommand i bk select cells s = .next (issueMap i bk select s) := by simp [mapCommand, h]

theorem mapCommand_busy {i : Instr} {bk : Nat} {select : State → Except Reject Kind}
    {cells : Kind → RaidzMap → List Nat → Memory → List Host.Cell} {s : State} (h : s.seq = .busy) :
    mapCommand i bk select cells s = .next (endPass cells s) := by simp [mapCommand, h]

theorem mapCommand_fault {i : Instr} {bk : Nat} {select : State → Except Reject Kind}
    {cells : Kind → RaidzMap → List Nat → Memory → List Host.Cell} {s : State} (h : s.seq = .fault) :
    mapCommand i bk select cells s = .next s := by simp [mapCommand, h]

theorem gfCommand_idle {i : Instr} {k : Kind} {op : Byte → Byte → Byte} {s : State} (h : s.seq = .idle) :
    gfCommand i k op s = .next (issueGf i k s) := by simp [gfCommand, h]

theorem gfCommand_busy {i : Instr} {k : Kind} {op : Byte → Byte → Byte} {s : State} (h : s.seq = .busy) :
    gfCommand i k op s = .next (endGf op s) := by simp [gfCommand, h]

theorem gfCommand_fault {i : Instr} {k : Kind} {op : Byte → Byte → Byte} {s : State} (h : s.seq = .fault) :
    gfCommand i k op s = .next s := by simp [gfCommand, h]

theorem mapCommand_next (i : Instr) (bk : Nat) (select : State → Except Reject Kind)
    (cells : Kind → RaidzMap → List Nat → Memory → List Host.Cell) (s : State) :
    ∃ t, mapCommand i bk select cells s = .next t := by
  cases h : s.seq
  · exact ⟨_, mapCommand_idle h⟩
  · exact ⟨_, mapCommand_busy h⟩
  · exact ⟨_, mapCommand_fault h⟩

theorem gfCommand_next (i : Instr) (k : Kind) (op : Byte → Byte → Byte) (s : State) :
    ∃ t, gfCommand i k op s = .next t := by
  cases h : s.seq
  · exact ⟨_, gfCommand_idle h⟩
  · exact ⟨_, gfCommand_busy h⟩
  · exact ⟨_, gfCommand_fault h⟩

/-- No command of the model stops the run: every one answers a next state, in every state. -/
theorem exec_next (i : Instr) (s : State) : ∃ t, exec i s = .next t := by
  cases i
  case gfexp2 => exact gfCommand_next ..
  case gfmul => exact gfCommand_next ..
  all_goals exact mapCommand_next ..

/-- In FAULT a command is ignored (rule R190). -/
theorem exec_fault (i : Instr) {s : State} (h : s.seq = .fault) : exec i s = .next s := by
  cases i
  case gfexp2 => exact gfCommand_fault h
  case gfmul => exact gfCommand_fault h
  all_goals exact mapCommand_fault h

/-- In IDLE a command is rejected with one fault or accepted with itself and the registers latched. -/
theorem exec_idle_cases (i : Instr) {s t : State} (h : s.seq = .idle) (he : exec i s = .next t) :
    (∃ r, t = s.raiseFault r) ∨ ∃ bk k, t = s.accept (s.latch i bk k) := by
  have map : ∀ {bk select} {cells : Kind → RaidzMap → List Nat → Memory → List Host.Cell},
      mapCommand i bk select cells s = .next t → (∃ r, t = s.raiseFault r) ∨ ∃ bk k, t = s.accept (s.latch i bk k) := by
    intro bk select cells hm
    rw [mapCommand_idle h] at hm
    cases hm
    rcases issueMap_cases i bk select s with ⟨r, hr⟩ | ⟨k, _, _, _, hk⟩
    · exact .inl ⟨r, hr⟩
    · exact .inr ⟨_, _, hk⟩
  have gf : ∀ {k op}, gfCommand i k op s = .next t → (∃ r, t = s.raiseFault r) ∨ ∃ bk k, t = s.accept (s.latch i bk k) := by
    intro k op hm
    rw [gfCommand_idle h] at hm
    cases hm
    rcases issueGf_cases i k s with ⟨r, _, hr⟩ | ⟨_, _, hk⟩
    · exact .inl ⟨r, hr⟩
    · exact .inr ⟨_, _, hk⟩
  cases i
  case gfexp2 => exact gf he
  case gfmul => exact gf he
  all_goals exact map he

/-- In BUSY a command ends: by a bus error or with some result byte and memory. (A BUSY state without a latch is no state of
a run; it stays as it is.) -/
theorem exec_busy_cases (i : Instr) {s t : State} (h : s.seq = .busy) (he : exec i s = .next t) :
    (s.latched = none ∧ t = s) ∨ (∃ a, t = s.busError a) ∨ ∃ g m, t = s.finish g m := by
  have map : ∀ {bk select} {cells : Kind → RaidzMap → List Nat → Memory → List Host.Cell},
      mapCommand i bk select cells s = .next t →
        (s.latched = none ∧ t = s) ∨ (∃ a, t = s.busError a) ∨ ∃ g m, t = s.finish g m := by
    intro bk select cells hm
    rw [mapCommand_busy h] at hm
    cases hm
    cases hl : s.latched with
    | none => exact .inl ⟨rfl, endPass_none _ hl⟩
    | some l =>
      rcases endPass_cases cells hl with ⟨a, _, ha⟩ | ⟨_, _, ha⟩ | ⟨_, _, ha⟩
      · exact .inr (.inl ⟨a, ha⟩)
      · exact .inr (.inr ⟨_, _, ha⟩)
      · exact .inr (.inr ⟨_, _, ha⟩)
  have gf : ∀ {k op}, gfCommand i k op s = .next t →
      (s.latched = none ∧ t = s) ∨ (∃ a, t = s.busError a) ∨ ∃ g m, t = s.finish g m := by
    intro k op hm
    rw [gfCommand_busy h] at hm
    cases hm
    cases hl : s.latched with
    | none => exact .inl ⟨rfl, endGf_none _ hl⟩
    | some l => exact .inr (.inr ⟨_, _, endGf_some _ hl⟩)
  cases i
  case gfexp2 => exact gf he
  case gfmul => exact gf he
  all_goals exact map he

end Sys2Proof.Machine
end

