-- ==== Sys2Proof/Laws/Issue.lean ====
section
/-! SUPPORT. Each issue check of rule R186 passes exactly when the condition that the spec states holds. -/

namespace Sys2Proof.Machine

/-! ### The map as data -/

@[simp] theorem mapOf_np (s : State) : s.mapOf.np = s.nparity.toNat := rfl

@[simp] theorem mapOf_colshift (s : State) : s.mapOf.colshift = s.colshift.toNat := rfl

@[simp] theorem mapOf_ncols (s : State) : s.mapOf.ncols = s.ncols.toNat := by
  simp [RaidzMap.ncols, State.mapOf, Descriptor.map, State.descriptor]

/-- The first `k` targets as numbers. -/
theorem targets_eq (s : State) (k : Nat) : s.targets k = [s.tgt0.toNat, s.tgt1.toNat, s.tgt2.toNat].take k := rfl

/-- Two states of which no step between wrote a register hold the same map registers and targets. -/
theorem descriptor_congr {s t : State} (h : SameDescriptor s t) : t.descriptor = s.descriptor := by
  simp [State.descriptor, h.ncols, h.nparity, h.colshift, h.cols, h.tgt0, h.tgt1, h.tgt2]

/-- They hold the same map. -/
theorem mapOf_congr {s t : State} (h : SameDescriptor s t) : t.mapOf = s.mapOf :=
  congrArg Descriptor.map (descriptor_congr h)

/-- They have the same targets. -/
theorem targets_congr {s t : State} (h : SameDescriptor s t) (k : Nat) : t.targets k = s.targets k :=
  congrArg (Descriptor.targets · k) (descriptor_congr h)

theorem targets_length {k : Nat} (hk : k ≤ 3) (s : State) : (s.targets k).length = k := by
  simp [targets_eq, hk]

theorem targetCount_le (k : Kind) : k.targetCount ≤ 3 := by cases k <;> decide

/-! ### Byte ranges -/

theorem contains_iff (g : Segment) (a : Nat) : g.contains a = true ↔ g.ptr ≤ a ∧ a < g.ptr + g.len := by
  simp [Segment.contains]

theorem mem_addrs (g : Segment) (a : Nat) : a ∈ g.addrs ↔ g.contains a = true := by
  simp only [Segment.addrs, List.mem_map, List.mem_range, contains_iff]
  constructor
  · rintro ⟨o, ho, rfl⟩; omega
  · rintro ⟨h, h'⟩; exact ⟨a - g.ptr, by omega, by omega⟩

/-- Two ranges overlap exactly when some address lies in both (rule R49). -/
theorem overlaps_iff (g h : Segment) :
    g.overlaps h = true ↔ ∃ a, g.contains a = true ∧ h.contains a = true := by
  simp only [Segment.overlaps, decide_eq_true_eq, contains_iff]
  constructor
  · rintro ⟨h1, h2, h3, h4⟩
    exact ⟨max g.ptr h.ptr, by omega⟩
  · rintro ⟨a, h1, h2⟩; omega

/-- The unmapped addresses of some ranges. -/
theorem mem_unmappedIn (p : Platform) (spans : List Segment) (a : Nat) :
    a ∈ unmappedIn p spans ↔ (∃ g ∈ spans, g.contains a = true) ∧ mapped p a = false := by
  simp [unmappedIn, mem_addrs]

/-! ### The checks of a map command -/

theorem checkBackend_none (bk : Nat) (s : State) : checkBackend bk s = none ↔ backendSupported s.platform bk = true := by
  simp [checkBackend]

theorem checkParityCount_none (s : State) :
    checkParityCount s = none ↔ 1 ≤ s.mapOf.np ∧ s.mapOf.np ≤ 3 := by
  simp [checkParityCount]

theorem columnDefect_none (m : RaidzMap) (c : Nat) :
    columnDefect m c = none ↔
      ¬(c < m.np ∧ (m.col c).len ≠ m.commonLen) ∧
      ¬(m.np ≤ c ∧ ((c + 1 < m.ncols ∧ (m.col c).len ≠ m.commonLen) ∨ (c + 1 = m.ncols ∧ m.commonLen < (m.col c).len))) ∧
      (m.col c).len % 2 ^ m.colshift = 0 := by
  unfold columnDefect
  split
  · simp_all
  · next h₁ =>
    split
    · next h₂ => simp [h₂]
    · next h₂ => simp [h₁, h₂]

theorem checkMap_none (s : State) :
    checkMap s = none ↔
      (s.mapOf.np + 1 ≤ s.mapOf.ncols ∧ s.mapOf.ncols ≤ s.mapOf.np + 255) ∧ s.mapOf.colshift < 64 ∧
        ∀ c, c < s.mapOf.ncols → columnDefect s.mapOf c = none := by
  unfold checkMap
  split
  · next h => simp; omega
  · next h =>
    split
    · next h' => simp; omega
    · next h' =>
      simp only [List.findSome?_eq_none_iff, List.mem_range, Option.map_eq_none_iff, mapOf_np, mapOf_ncols, mapOf_colshift]
      constructor
      · intro hc; exact ⟨by omega, by omega, hc⟩
      · intro hc; exact hc.2.2

theorem checkAddrRange_none (m : RaidzMap) :
    checkAddrRange m = none ↔ ∀ c, c < m.ncols → (m.col c).ptr + (m.col c).len ≤ 2 ^ 64 := by
  simp [checkAddrRange]

/-- Checks (2) to (5) pass exactly when the backend exists and the map is valid. -/
theorem checksBeforeKind_none (bk : Nat) (s : State) :
    checksBeforeKind bk s = none ↔ backendSupported s.platform bk = true ∧ ValidMap s.mapOf := by
  have split : checksBeforeKind bk s = none ↔
      checkBackend bk s = none ∧ checkParityCount s = none ∧ checkMap s = none ∧ checkAddrRange s.mapOf = none := by
    unfold checksBeforeKind
    cases checkBackend bk s <;> cases checkParityCount s <;> cases checkMap s <;> simp
  rw [split, checkBackend_none, checkParityCount_none, checkMap_none, checkAddrRange_none]
  have hn : s.mapOf.n = s.mapOf.ncols - s.mapOf.np := rfl
  have hlen : ∀ i, s.mapOf.len i = (s.mapOf.col (s.mapOf.np + i)).len := fun _ => rfl
  constructor
  · rintro ⟨hb, hp, ⟨hcount, hshift, hcol⟩, hrange⟩
    refine ⟨hb, hp, hcount, hshift, fun c hc => ?_, fun i hi => ?_, ?_, fun c hc => ?_, hrange⟩
    · have := (columnDefect_none _ _).mp (hcol c (by omega))
      by_contra hne
      exact this.1 ⟨hc, hne⟩
    · have := (columnDefect_none _ _).mp (hcol (s.mapOf.np + i) (by omega))
      by_contra hne
      exact this.2.1 ⟨by omega, .inl ⟨by omega, hne⟩⟩
    · have := (columnDefect_none _ _).mp (hcol (s.mapOf.ncols - 1) (by omega))
      by_contra hne
      refine this.2.1 ⟨by omega, .inr ⟨by omega, ?_⟩⟩
      have e : s.mapOf.ncols - 1 = s.mapOf.np + (s.mapOf.n - 1) := by omega
      rw [e]
      simp only [RaidzMap.shortLen, hlen] at hne
      omega
    · exact Nat.dvd_of_mod_eq_zero ((columnDefect_none _ _).mp (hcol c hc)).2.2
  · rintro ⟨hb, hv⟩
    refine ⟨hb, hv.parityCount, ⟨hv.columnCount, hv.shiftBound, fun c hc => ?_⟩, hv.inRange⟩
    have hc' := hv.columnCount
    rw [columnDefect_none]
    refine ⟨fun h => h.2 (hv.parityLen c h.1), ?_, Nat.mod_eq_zero_of_dvd (hv.granular c hc)⟩
    rintro ⟨hnp, ⟨hlt, hne⟩ | ⟨heq, hgt⟩⟩
    · have := hv.bigLen (c - s.mapOf.np) (by omega)
      rw [hlen, Nat.add_sub_cancel' hnp] at this
      exact hne this
    · have := hv.lastLen
      rw [RaidzMap.shortLen, hlen, show s.mapOf.np + (s.mapOf.n - 1) = c by omega] at this
      omega

theorem checkKind_none (k : Kind) (m : RaidzMap) : checkKind k m = none ↔ ∀ p ∈ k.parities, p < m.np := by
  simp [checkKind]

/-- The target check of rule R121 passes exactly on acceptable targets. -/
theorem checkTargets_none {k : Nat} {m : RaidzMap} {targets : List Nat} (hk : k ≤ 3) (hl : targets.length = k) :
    checkTargets k m targets = none ↔ ValidTargets k m targets := by
  unfold checkTargets
  split
  · next h => simp only [reduceCtorEq, false_iff]; rintro ⟨h', -, -⟩; omega
  · next h =>
    match targets, hl with
    | [], hl => simp at hl; omega
    | [x], hl =>
      subst hl
      simp only [targetOk]
      constructor
      · intro hc; exact ⟨by simp, by simpa using hc, by simp⟩
      · intro hc; simpa using hc.inData
    | [x, y], hl =>
      subst hl
      simp only [List.length_cons, List.length_nil, List.range_succ, List.range_zero, targetOk]
      constructor
      · intro hc
        simp at hc
        exact ⟨by simp, by simp; omega, by simp; omega⟩
      · intro hc
        have h₁ := hc.inData
        have h₂ := hc.ascending
        simp at h₁ h₂ ⊢
        omega
    | [x, y, z], hl =>
      subst hl
      simp only [List.length_cons, List.length_nil, List.range_succ, List.range_zero, targetOk]
      constructor
      · intro hc
        simp at hc
        exact ⟨by simp, by simp; omega, by simp; omega⟩
      · intro hc
        have h₁ := hc.inData
        have h₂ := hc.ascending
        simp at h₁ h₂ ⊢
        omega
    | _ :: _ :: _ :: _ :: _, hl => simp at hl; omega

/-- The overlap check passes exactly when no written column shares a byte with another involved one. -/
theorem checkOverlap_none (k : Kind) (m : RaidzMap) (targets : List Nat) :
    checkOverlap k m targets = none ↔ NoOverlap k m targets := by
  simp only [checkOverlap, List.findSome?_eq_none_iff, Option.map_eq_none_iff, List.find?_eq_none, NoOverlap,
    Bool.and_eq_true, decide_eq_true_eq, overlaps_iff]
  constructor
  · intro h w hw c hc hne a ha
    exact h w hw c hc ⟨hne, a, ha⟩
  · rintro h w hw c hc ⟨hne, a, ha⟩
    exact h w hw c hc hne a ha

theorem checkAligned_none (bk : Nat) (s : State) (k : Kind) (m : RaidzMap) (targets : List Nat) :
    checkAligned bk s k m targets = none ↔ (bk ≠ 0 → AlignedTo (vbytes s.platform) k m targets) := by
  unfold checkAligned
  split
  · next h => simp [h]
  · next h =>
    simp only [Option.map_eq_none_iff, List.find?_eq_none, decide_eq_true_eq, AlignedTo]
    constructor
    · intro hc _ c hm
      have := hc c hm
      exact ⟨Nat.dvd_of_mod_eq_zero (by omega), Nat.dvd_of_mod_eq_zero (by omega)⟩
    · intro hc c hm hbad
      have := hc h c hm
      have h₁ := Nat.mod_eq_zero_of_dvd this.1
      have h₂ := Nat.mod_eq_zero_of_dvd this.2
      omega

theorem checksAfterKind_none (bk : Nat) (s : State) (k : Kind) :
    checksAfterKind bk s k = none ↔
      NoOverlap k s.mapOf (s.targets k.targetCount) ∧
        (bk ≠ 0 → AlignedTo (vbytes s.platform) k s.mapOf (s.targets k.targetCount)) := by
  rw [← checkOverlap_none, ← checkAligned_none]
  unfold checksAfterKind
  cases checkOverlap k s.mapOf (s.targets k.targetCount) <;> simp

/-! ### Choosing the kind -/

/-- What GEN selects (rule R103). -/
theorem selectGen_eq (s : State) :
    selectGen s = .ok (if s.mapOf.np = 1 then .genP else if s.mapOf.np = 2 then .genPQ else .genPQR) := by
  simp only [mapOf_np]
  unfold selectGen
  split <;> simp_all

theorem selectDirectGen_ok (k j : Kind) (s : State) :
    selectDirectGen k s = .ok j ↔ j = k ∧ ∀ p ∈ k.parities, p < s.mapOf.np := by
  rw [← checkKind_none]
  unfold selectDirectGen
  cases checkKind k s.mapOf <;> simp [eq_comm]

theorem selectDirectRec_ok (k j : Kind) (s : State) :
    selectDirectRec k s = .ok j ↔
      j = k ∧ (∀ p ∈ k.parities, p < s.mapOf.np) ∧ ValidTargets k.targetCount s.mapOf (s.targets k.targetCount) := by
  rw [← checkKind_none, ← checkTargets_none (targetCount_le k) (targets_length (targetCount_le k) s)]
  unfold selectDirectRec
  cases checkKind k s.mapOf <;> cases checkTargets k.targetCount s.mapOf (s.targets k.targetCount) <;> simp [eq_comm]

/-- What the lookup of rule R123 answers: a kind that recovers that many targets from valid parities. -/
theorem lookupKind_some {valid n : Nat} {k : Kind} (h : lookupKind valid n = some k) :
    k.targetCount = n ∧ k.isGen = false ∧ ∀ p ∈ k.parities, valid.testBit p = true := by
  unfold lookupKind at h
  cases hp : valid.testBit 0 <;> cases hq : valid.testBit 1 <;> cases hr : valid.testBit 2 <;>
    simp only [hp, hq, hr] at h <;> split at h <;> simp_all <;> subst h <;>
    simp [Kind.targetCount, Kind.isGen, Kind.parities, hp, hq, hr]

theorem selectRec_ok (valid tcnt : Nat) (j : Kind) (s : State) (ht : tcnt ≤ 3) :
    selectRec valid tcnt s = .ok j ↔
      ValidTargets tcnt s.mapOf (s.targets tcnt) ∧ valid < 2 ^ s.mapOf.np ∧ lookupKind valid tcnt = some j := by
  rw [← checkTargets_none ht (targets_length ht s)]
  unfold selectRec
  cases checkTargets tcnt s.mapOf (s.targets tcnt) with
  | some r => simp
  | none =>
    have hdiv : valid / 2 ^ s.nparity.toNat ≠ 0 ↔ ¬valid < 2 ^ s.nparity.toNat := by
      rw [Ne, Nat.div_eq_zero_iff]
      have := Nat.two_pow_pos s.nparity.toNat
      omega
    simp only [mapOf_np, true_and]
    split
    · next h => simp [hdiv.mp h]
    · next h =>
      have h' : valid < 2 ^ s.nparity.toNat := by
        by_contra hc
        exact h (hdiv.mpr hc)
      cases lookupKind valid tcnt <;> simp [h']

end Sys2Proof.Machine
end

