-- ==== Sys2Proof/Laws/Commands.lean ====
section
/-! SUPPORT. What every map command does in each sequencing state, in the terms of Safety.lean: which kind it selects, what its
issue answers, and which bytes its end stores. -/

namespace Sys2Proof.Machine

/-- How a map command chooses its kind: (6) to (8) of rule R186. -/
def selectOf : Instr → State → Except Reject Kind
  | .gen _ => selectGen
  | .genp _ => selectDirectGen .genP
  | .genpq _ => selectDirectGen .genPQ
  | .genpqr _ => selectDirectGen .genPQR
  | .reconstruct _ v t => selectRec v t
  | .recp _ => selectDirectRec .recP
  | .recq _ => selectDirectRec .recQ
  | .recr _ => selectDirectRec .recR
  | .recpq _ => selectDirectRec .recPQ
  | .recpr _ => selectDirectRec .recPR
  | .recqr _ => selectDirectRec .recQR
  | .recpqr _ => selectDirectRec .recPQR
  | .gfexp2 => fun _ => .ok .gfExp2
  | .gfmul => fun _ => .ok .gfMul

/-- In IDLE a map command is issued with its own choice of the kind. -/
theorem exec_idle_map (i : Instr) (hm : i.isMap = true) (s : State) (h : s.seq = .idle) :
    exec i s = .next (issueMap i i.backend (selectOf i) s) := by
  cases i <;> first | (simp [Instr.isMap] at hm; done) | exact mapCommand_idle h

/-- A direct generation kind is selected exactly when the map has its parities. -/
theorem selectDirectGen_iff (k : Kind) (s : State) (kf : Option Kind) (j : Kind) (hg : k.isGen = true) (h0 : k.targetCount = 0)
    (h1 : kf = some j → j = k) (h2 : (∀ p ∈ k.parities, p < s.mapOf.np) → kf = some k) :
    selectDirectGen k s = .ok j ↔ kf = some j ∧ (∀ p ∈ j.parities, p < s.mapOf.np) ∧
      (j.isGen = true → s.targets j.targetCount = []) ∧
      (j.isGen = false → ValidTargets j.targetCount s.mapOf (s.targets j.targetCount)) := by
  rw [selectDirectGen_ok]
  constructor
  · rintro ⟨rfl, h⟩
    exact ⟨h2 h, h, fun _ => by simp [h0, targets_eq], fun h' => by simp [hg] at h'⟩
  · rintro ⟨h, h', -⟩
    obtain rfl := h1 h
    exact ⟨rfl, h'⟩

/-- A direct reconstruction kind is selected exactly when the map has its parities and the targets are acceptable. -/
theorem selectDirectRec_iff (k : Kind) (s : State) (kf : Option Kind) (j : Kind) (hg : k.isGen = false)
    (h1 : kf = some j → j = k) (h2 : (∀ p ∈ k.parities, p < s.mapOf.np) → kf = some k) :
    selectDirectRec k s = .ok j ↔ kf = some j ∧ (∀ p ∈ j.parities, p < s.mapOf.np) ∧
      (j.isGen = true → s.targets j.targetCount = []) ∧
      (j.isGen = false → ValidTargets j.targetCount s.mapOf (s.targets j.targetCount)) := by
  rw [selectDirectRec_ok]
  constructor
  · rintro ⟨rfl, h, h'⟩
    exact ⟨h2 h, h, fun h'' => by simp [hg] at h'', fun _ => h'⟩
  · rintro ⟨h, h', -, h''⟩
    obtain rfl := h1 h
    exact ⟨rfl, h', h'' hg⟩

/-- On a valid map the choice succeeds exactly as rules R103, R109, R121, R123 and R137 say. -/
theorem selectOf_ok (i : Instr) (hm : i.isMap = true) (s : State) (hv : ValidMap s.mapOf) (k : Kind) :
    selectOf i s = .ok k ↔ kindFor i s.mapOf.np = some k ∧ (∀ p ∈ k.parities, p < s.mapOf.np) ∧
      (k.isGen = true → s.targets k.targetCount = []) ∧
      (k.isGen = false → ValidTargets k.targetCount s.mapOf (s.targets k.targetCount)) := by
  have hp := hv.parityCount
  cases i
  case gen bk =>
    simp only [selectOf, selectGen_eq, kindFor, Except.ok.injEq]
    constructor
    · intro h
      split at h
      · subst h; simp_all [Kind.parities, Kind.isGen, targets_eq, Kind.targetCount]
      · split at h
        · subst h; simp_all [Kind.parities, Kind.isGen, targets_eq, Kind.targetCount]
        · subst h; simp_all [Kind.parities, Kind.isGen, targets_eq, Kind.targetCount]; omega
    · rintro ⟨h, -⟩
      split at h
      · simp_all
      · split at h <;> simp_all
  case reconstruct bk v t =>
    by_cases ht : t ≤ 3
    · simp only [selectOf, kindFor]
      rw [selectRec_ok v t k s ht]
      constructor
      · rintro ⟨h1, h2, h3⟩
        obtain ⟨e1, e2, e3⟩ := lookupKind_some h3
        refine ⟨by simp at h2 ⊢; simp [h2, h3], fun p hpp => ?_, by simp [e2], fun _ => e1 ▸ h1⟩
        have := Nat.ge_two_pow_of_testBit (e3 p hpp)
        exact (Nat.pow_lt_pow_iff_right (by decide : 1 < 2)).mp (lt_of_le_of_lt this h2)
      · rintro ⟨h1, h2, h3, h4⟩
        split at h1
        · next h5 =>
          obtain ⟨e1, e2, e3⟩ := lookupKind_some h1
          exact ⟨e1 ▸ h4 e2, h5, h1⟩
        · simp at h1
    · have : lookupKind v t = none := by unfold lookupKind; split <;> simp_all
      simp only [selectOf, kindFor, this, ite_self, reduceCtorEq, false_and, iff_false, selectRec]
      have ht0 : t ≠ 0 := by omega
      have : checkTargets t s.mapOf (s.targets t) ≠ none := by
        unfold checkTargets
        simp only [ht0, if_false, ne_eq, Option.map_eq_none_iff, List.find?_eq_none, not_forall]
        refine ⟨3, by simp; omega, ?_⟩
        have np : s.nparity.toNat ≠ 0 := by simp at hp; omega
        simp [targetOk, targets_eq, np]
      cases hh : checkTargets t s.mapOf (s.targets t) <;> simp_all
  case gfexp2 => simp [Instr.isMap] at hm
  case gfmul => simp [Instr.isMap] at hm
  all_goals first
    | exact selectDirectGen_iff _ _ _ _ rfl rfl (by grind [kindFor]) (by simp [Kind.parities]; grind [kindFor, mapOf_np])
    | exact selectDirectRec_iff _ _ _ _ rfl (by grind [kindFor]) (by simp [Kind.parities]; grind [kindFor, mapOf_np])

/-- The bytes that a map command stores at its end. -/
def cellsOf : Instr → Kind → RaidzMap → List Nat → Memory → List Host.Cell
  | .gen _ => fun k m _ mem => genCells k m mem
  | .genp _ => fun _ m _ mem => genPCells m mem
  | .genpq _ => fun _ m _ mem => genPQCells m mem
  | .genpqr _ => fun _ m _ mem => genPQRCells m mem
  | .reconstruct _ _ _ => recCells
  | .recp _ => fun _ => recPCells
  | .recq _ => fun _ => recQCells
  | .recr _ => fun _ => recRCells
  | .recpq _ => fun _ => recPQCells
  | .recpr _ => fun _ => recPRCells
  | .recqr _ => fun _ => recQRCells
  | .recpqr _ => fun _ => recPQRCells
  | .gfexp2 => fun _ _ _ _ => []
  | .gfmul => fun _ _ _ _ => []

/-- In BUSY a map command makes its data pass. -/
theorem exec_busy_map (i : Instr) (hm : i.isMap = true) (s : State) (h : s.seq = .busy) :
    exec i s = .next (endPass (cellsOf i) s) := by
  cases i <;> first | (simp [Instr.isMap] at hm; done) | exact mapCommand_busy h

/-- The kind that a command runs decides the bytes it stores. -/
theorem cellsOf_eq {i : Instr} {np : Nat} {k : Kind} (h : kindFor i np = some k) (m : RaidzMap) (targets : List Nat)
    (mem : Memory) : cellsOf i k m targets mem = jobCells k m targets mem := by
  cases i with
  | gen bk =>
    simp only [kindFor] at h
    split at h
    · cases h; rfl
    · split at h <;> cases h <;> rfl
  | reconstruct bk v t =>
    simp only [kindFor] at h
    split at h
    · have := (lookupKind_some h).2.1
      simp [cellsOf, jobCells, this]
    · cases h
  | gfexp2 => cases h
  | gfmul => cases h
  | genp bk => cases h; rfl
  | recp bk => cases h; rfl
  | _ bk => simp only [kindFor] at h; split at h <;> cases h; rfl

/-- Of a state that passes all checks the command is accepted. -/
theorem exec_acceptable {i : Instr} {k : Kind} {s : State} (hm : i.isMap = true) (h : Acceptable i k s) :
    exec i s = .next (s.accept (s.latch i i.backend k)) := by
  rw [exec_idle_map i hm s h.idle]
  exact congrArg _ (issueMap_accept ((checksBeforeKind_none _ _).mpr ⟨h.backend, h.job.validMap⟩)
    ((selectOf_ok i hm s h.job.validMap k).mpr ⟨h.kind, h.job.parities, h.job.genTargets, h.job.recTargets⟩)
    ((checksAfterKind_none _ _ _).mpr ⟨h.job.noOverlap, h.aligned⟩))

/-- A fault of the checks before the kind. -/
theorem exec_reject_before {i : Instr} {s : State} {r : Reject} (hm : i.isMap = true) (hs : s.seq = .idle)
    (h : checksBeforeKind i.backend s = some r) : exec i s = .next (s.raiseFault r) := by
  rw [exec_idle_map i hm s hs, issueMap_reject_before h]

/-- A fault of the choice of the kind. -/
theorem exec_reject_kind {i : Instr} {s : State} {r : Reject} (hm : i.isMap = true) (hs : s.seq = .idle)
    (hb : backendSupported s.platform i.backend = true) (hv : ValidMap s.mapOf) (h : selectOf i s = .error r) :
    exec i s = .next (s.raiseFault r) := by
  rw [exec_idle_map i hm s hs, issueMap_reject_kind ((checksBeforeKind_none _ _).mpr ⟨hb, hv⟩) h]

/-- A fault of the checks after the kind. -/
theorem exec_reject_after {i : Instr} {s : State} {k : Kind} {r : Reject} (hm : i.isMap = true) (hs : s.seq = .idle)
    (hb : backendSupported s.platform i.backend = true) (hv : ValidMap s.mapOf) (hk : selectOf i s = .ok k)
    (h : checksAfterKind i.backend s k = some r) : exec i s = .next (s.raiseFault r) := by
  rw [exec_idle_map i hm s hs, issueMap_reject_after ((checksBeforeKind_none _ _).mpr ⟨hb, hv⟩) hk h]

/-- On mapped memory the data pass meets no bus error. -/
theorem busFault_none {p : Platform} {ctr : Nat} {l : Latch} (h : AllMapped p l.kind l.map l.targets) :
    busFault p ctr l = none := by
  have : unmappedIn p (writeSpans l.kind l.map l.targets ++ readSpans l.kind l.map l.targets) = [] := by
    rw [List.eq_nil_iff_forall_not_mem]
    intro a ha
    obtain ⟨⟨g, hg, hga⟩, hn⟩ := (mem_unmappedIn _ _ _).mp ha
    rw [h g hg a hga] at hn
    cases hn
  simp [busFault, this]

/-- The two transitions of an acceptable map command on mapped memory: acceptance, then the end with the kind's bytes stored. -/
theorem exec_acceptable_ends {i : Instr} {k : Kind} {s : State} (hm : i.isMap = true) (h : Acceptable i k s)
    (ha : AllMapped s.platform k s.mapOf (s.targets k.targetCount)) :
    let s₁ := s.accept (s.latch i i.backend k)
    exec i s = .next s₁ ∧ exec i s₁ = .next (s₁.finish s.gfr (s.mem.writeAll (jobCells k s.mapOf (s.targets k.targetCount) s.mem))) := by
  intro s₁
  refine ⟨exec_acceptable hm h, ?_⟩
  rw [exec_busy_map i hm s₁ rfl]
  rcases endPass_cases (cellsOf i) (s := s₁) (l := s.latch i i.backend k) rfl with ⟨a, hb, _⟩ | ⟨_, hr, _⟩ | ⟨_, _, he⟩
  · rw [show busFault s₁.platform s₁.freeCtr (s.latch i i.backend k) = none from busFault_none ha] at hb; cases hb
  · cases hr
  · rw [he]
    show Host.Outcome.next (s₁.finish s.gfr (s.mem.writeAll (cellsOf i k s.mapOf (s.targets k.targetCount) s.mem))) = _
    rw [cellsOf_eq h.kind]

/-! ### The bytes stored -/

/-- Two parity columns that a valid generation writes share no byte. -/
theorem parities_disjoint (m : RaidzMap) (k : Kind) (t : List Nat) (h : ValidJob k m t) (hg : k.isGen = true) :
   ∀ p ∈ k.parities, ∀ q ∈ k.parities, ∀ a, (m.col p).contains a = true → (m.col q).contains a = true → p = q := by
  intro p hp q hq a h1 h2
  by_contra hne
  have hw : writtenCols k t = k.parities := by simp [writtenCols, hg]
  have hc := h.validMap.columnCount
  refine h.noOverlap p (by rw [hw]; exact hp) q ?_ (Ne.symm hne) a ⟨h1, h2⟩
  have := h.parities q hq
  simp [involvedCols, hw, hq]
  omega

/-- Two target columns of a valid reconstruction share no byte. -/
theorem targets_disjoint (m : RaidzMap) (k : Kind) (t : List Nat) (h : ValidJob k m t) (hg : k.isGen = false) :
   ∀ p ∈ t, ∀ q ∈ t, ∀ a, (m.col p).contains a = true → (m.col q).contains a = true → p = q := by
  intro p hp q hq a h1 h2
  by_contra hne
  have hw : writtenCols k t = t := by simp [writtenCols, hg]
  refine h.noOverlap p (by rw [hw]; exact hp) q ?_ (Ne.symm hne) a ⟨h1, h2⟩
  have := (h.recTargets hg).inData q hq
  simp [involvedCols, hw, hq]
  omega

/-- A generation stores the parity columns of its kind, one after the other (rules R104 to R106). -/
theorem jobCells_gen (k : Kind) (m mem) (hg : k.isGen = true) :
    jobCells k m [] mem = k.parities.flatMap fun p => parityCells p m mem := by
  cases k <;> simp [Kind.isGen] at hg <;> simp [jobCells, Kind.isGen, genCells, genPCells, genPQCells, genPQRCells, Kind.parities]

/-- A reconstruction stores the closed form's bytes, gated by each target's length (rule R133). -/
theorem jobCells_rec (k : Kind) (m t mem) (hg : k.isGen = false) (h1 : k ≠ .gfExp2) (h2 : k ≠ .gfMul) :
    jobCells k m t mem = targetCells m t (recSolution k m t mem) := by
  cases k <;> simp [Kind.isGen] at hg h1 h2 <;> rfl

end Sys2Proof.Machine
end

