-- ==== Sys2Proof/Laws/Field.lean ====
section
/-! SUPPORT. Small facts about the tables and the field functions: each definition's own lemmas, which the proofs of field laws
start from. -/

namespace Sys2Proof.Machine

theorem mul2_zero : mul2 0 = 0 := by decide

theorem mul4_zero : mul4 0 = 0 := by decide

/-- Doubling is additive (rule R82). -/
theorem mul2_xor (a b : Byte) : mul2 (a ^^^ b) = mul2 a ^^^ mul2 b := by
  unfold mul2
  rw [BitVec.shiftLeft_xor_distrib, BitVec.getLsbD_xor]
  have comm (x y z : Byte) : x ^^^ (y ^^^ z) = y ^^^ (x ^^^ z) := by
    rw [← BitVec.xor_assoc, BitVec.xor_comm x y, BitVec.xor_assoc]
  cases a.getLsbD 7 <;> cases b.getLsbD 7 <;> simp [BitVec.xor_assoc, comm (BitVec.ofNat 8 poly)]
  · exact BitVec.xor_comm ..

theorem mul4_xor (a b : Byte) : mul4 (a ^^^ b) = mul4 a ^^^ mul4 b := by simp [mul4, mul2_xor]

theorem pow2_zero : pow2 0 = 1 := by decide

set_option maxRecDepth 4000 in
/-- The recurrence of the table (rule R30). -/
theorem pow2_succ (e : Nat) (h : e < 510) : pow2 (e + 1) = mul2 (pow2 e) := by
  have all : ∀ i : Fin 510, pow2 (i.val + 1) = mul2 (pow2 i.val) := by decide +kernel
  exact all ⟨e, h⟩

/-- `LOG2` of a nonzero element is an exponent in 0..254 (rule R31). -/
theorem log2_lt (a : Byte) (h : a ≠ 0) : log2 a < 255 := by
  have all : ∀ i : Fin 255, log2Table.getD i.val 0 < 255 := by decide +kernel
  have hpos : a.toNat ≠ 0 := fun e => h (BitVec.eq_of_toNat_eq (by simpa using e))
  have hlt : a.toNat - 1 < 255 := by have := a.isLt; omega
  rw [log2, if_neg h]
  exact all ⟨a.toNat - 1, hlt⟩

theorem exp2_zero_left (e : Nat) : exp2 0 e = 0 := rfl

theorem exp2_of_ne {a : Byte} (h : a ≠ 0) (e : Nat) : exp2 a e = pow2 (e + log2 a) := if_neg h

theorem gfmul_zero_left (b : Byte) : gfmul 0 b = 0 := by simp [gfmul]

theorem gfmul_zero_right (a : Byte) : gfmul a 0 = 0 := by simp [gfmul]

theorem gfmul_of_ne {a b : Byte} (ha : a ≠ 0) (hb : b ≠ 0) : gfmul a b = pow2 (log2 a + log2 b) :=
  if_neg (not_or.mpr ⟨ha, hb⟩)

/-- The general product is `exp2` with the exponent `LOG2[b]` (rule R87). -/
theorem gfmul_eq_exp2 (a : Byte) {b : Byte} (hb : b ≠ 0) : gfmul a b = exp2 a (log2 b) := by
  by_cases ha : a = 0
  · simp [ha, gfmul, exp2]
  · rw [gfmul_of_ne ha hb, exp2_of_ne ha, Nat.add_comm]

/-! ### Sums over index lists -/

@[simp] theorem xorOver_nil (f : Nat → Byte) : xorOver f [] = 0 := rfl

@[simp] theorem xorOver_cons (f : Nat → Byte) (i : Nat) (l : List Nat) : xorOver f (i :: l) = f i ^^^ xorOver f l := rfl

theorem xorOver_append (f : Nat → Byte) (l k : List Nat) : xorOver f (l ++ k) = xorOver f l ^^^ xorOver f k := by
  induction l with
  | nil => simp
  | cons i rest ih => simp [ih, BitVec.xor_assoc]

theorem xorOver_congr {f g : Nat → Byte} {l : List Nat} (h : ∀ i ∈ l, f i = g i) : xorOver f l = xorOver g l := by
  induction l with
  | nil => rfl
  | cons i rest ih => simp [h i (by simp), ih fun j hj => h j (by simp [hj])]

theorem xorOver_range_succ (f : Nat → Byte) (n : Nat) :
    xorOver f (List.range (n + 1)) = xorOver f (List.range n) ^^^ f n := by
  rw [List.range_succ, xorOver_append]
  simp

end Sys2Proof.Machine
end

