-- ==== Sys2Proof/Laws/PerInstr.lean ====
section
/-! SUPPORT. A family of statements about every instruction as syntax: the word the encoder gives agrees with the `mask` and
`match` of the instruction's row in spec/opcode_table.json, which are written out here from that table. -/

namespace Sys2Proof.Laws.TableRow

/-- `mask` of the row. -/
def mask : Instr → Word
  | .gen _ => 0xFFFFFFFFFFFFFF0F
  | .genp _ => 0xFFFFFFFFFFFFFF0F
  | .genpq _ => 0xFFFFFFFFFFFFFF0F
  | .genpqr _ => 0xFFFFFFFFFFFFFF0F
  | .reconstruct _ _ _ => 0xFFFFFFFFFFFFC80F
  | .recp _ => 0xFFFFFFFFFFFFFF0F
  | .recq _ => 0xFFFFFFFFFFFFFF0F
  | .recr _ => 0xFFFFFFFFFFFFFF0F
  | .recpq _ => 0xFFFFFFFFFFFFFF0F
  | .recpr _ => 0xFFFFFFFFFFFFFF0F
  | .recqr _ => 0xFFFFFFFFFFFFFF0F
  | .recpqr _ => 0xFFFFFFFFFFFFFF0F
  | .gfexp2 => 0xFFFFFFFFFFFFFFFF
  | .gfmul => 0xFFFFFFFFFFFFFFFF

/-- `match` of the row. -/
def pattern : Instr → Word
  | .gen _ => 0x0000000000000001
  | .genp _ => 0x0000000000000002
  | .genpq _ => 0x0000000000000003
  | .genpqr _ => 0x0000000000000004
  | .reconstruct _ _ _ => 0x0000000000000005
  | .recp _ => 0x0000000000000006
  | .recq _ => 0x0000000000000007
  | .recr _ => 0x0000000000000008
  | .recpq _ => 0x0000000000000009
  | .recpr _ => 0x000000000000000A
  | .recqr _ => 0x000000000000000B
  | .recpqr _ => 0x000000000000000C
  | .gfexp2 => 0x000000000000000D
  | .gfmul => 0x000000000000000E

/-- The encoded word matches the instruction's row of the opcode table. -/
def Statement (i : Instr) : Prop := i.wellFormed = true → encode i &&& mask i = pattern i

/-- A word with BKND as its only operand matches a row with that operand. -/
theorem backend_row (op : Fin 16) (bk : Nat) (h : backendFits bk = true) :
    commandWord op bk 0 0 &&& 0xFFFFFFFFFFFFFF0F = BitVec.ofNat 64 op := by
  have all : ∀ o b : Fin 16, commandWord o b 0 0 &&& 0xFFFFFFFFFFFFFF0F = BitVec.ofNat 64 o := by decide +kernel
  exact all op ⟨bk, by simpa [backendFits] using h⟩

theorem gen (bk : Nat) : Statement (.gen bk) := fun h => backend_row 1 bk h
theorem genp (bk : Nat) : Statement (.genp bk) := fun h => backend_row 2 bk h
theorem genpq (bk : Nat) : Statement (.genpq bk) := fun h => backend_row 3 bk h
theorem genpqr (bk : Nat) : Statement (.genpqr bk) := fun h => backend_row 4 bk h

theorem reconstruct (bk valid tcnt : Nat) : Statement (.reconstruct bk valid tcnt) := by
  intro h
  simp only [Instr.wellFormed, backendFits, validFits, countFits, Bool.and_eq_true, decide_eq_true_eq] at h
  have all : ∀ (b : Fin 16) (v : Fin 8) (c : Fin 4), commandWord 5 b v c &&& 0xFFFFFFFFFFFFC80F = 5 := by
    decide +kernel
  exact all ⟨bk, h.1.1⟩ ⟨valid, h.1.2⟩ ⟨tcnt, h.2⟩

theorem recp (bk : Nat) : Statement (.recp bk) := fun h => backend_row 6 bk h
theorem recq (bk : Nat) : Statement (.recq bk) := fun h => backend_row 7 bk h
theorem recr (bk : Nat) : Statement (.recr bk) := fun h => backend_row 8 bk h
theorem recpq (bk : Nat) : Statement (.recpq bk) := fun h => backend_row 9 bk h
theorem recpr (bk : Nat) : Statement (.recpr bk) := fun h => backend_row 10 bk h
theorem recqr (bk : Nat) : Statement (.recqr bk) := fun h => backend_row 11 bk h
theorem recpqr (bk : Nat) : Statement (.recpqr bk) := fun h => backend_row 12 bk h
theorem gfexp2 : Statement .gfexp2 := fun _ => by decide
theorem gfmul : Statement .gfmul := fun _ => by decide

end Sys2Proof.Laws.TableRow
end

