-- ==== Sys2Proof/Laws/Step.lean ====
section
/-! SUPPORT. What one step can do: whose turn it is, in each sequencing state. -/

namespace Sys2Proof.Machine

theorem step_eq_turn (s : State) : step s = turn s := rfl

/-- Outside BUSY a held write comes first. -/
theorem step_held {s : State} {r : Nat} {v : Word} {more : List (Nat × Word)} (hs : s.seq ≠ .busy)
    (hh : s.held = (r, v) :: more) : step s = hostWrite r v (s.withHeld more) := by
  cases hq : s.seq <;> simp_all [step, turn]

/-- Outside BUSY, with nothing held, the host's next action is done. -/
theorem step_input {s : State} {x : HostAction} {rest : List HostAction} (hs : s.seq ≠ .busy) (hh : s.held = [])
    (hi : s.inputs = x :: rest) : step s = hostStep x (s.withInputs rest) := by
  cases hq : s.seq <;> simp_all [step, turn]

/-- Outside BUSY, with nothing to do, the machine waits. -/
theorem step_quiet {s : State} (hs : s.seq ≠ .busy) (hh : s.held = []) (hi : s.inputs = []) : step s = .next s := by
  cases hq : s.seq <;> simp_all [step, turn]

/-- In BUSY the engine moves when the host has nothing to do but wait. -/
theorem step_engine {s : State} (hs : s.seq = .busy) (hi : s.inputs = [] ∨ ∃ rest, s.inputs = .wait :: rest) :
    step s = engineStep s := by
  rcases hi with hi | ⟨rest, hi⟩ <;> simp [step, turn, hs, hi]

/-- In BUSY the host's next action is done first. -/
theorem step_busy_input {s : State} {x : HostAction} {rest : List HostAction} (hs : s.seq = .busy)
    (hi : s.inputs = x :: rest) (hx : x ≠ .wait) : step s = hostStep x (s.withInputs rest) := by
  cases x <;> simp_all [step, turn]

theorem engineStep_latched {s : State} {l : Latch} (hs : s.seq = .busy) (hl : s.latched = some l) :
    engineStep s = exec l.instr s := by simp [engineStep, hs, hl]

/-- What one step can be. -/
theorem step_cases (s : State) :
    (s.seq = .busy ∧ step s = engineStep s) ∨
      (s.seq ≠ .busy ∧ ∃ r v more, s.held = (r, v) :: more ∧ step s = hostWrite r v (s.withHeld more)) ∨
      (∃ x rest, s.inputs = x :: rest ∧ (s.seq = .busy ∨ s.held = []) ∧ step s = hostStep x (s.withInputs rest)) ∨
      (s.seq ≠ .busy ∧ s.held = [] ∧ s.inputs = [] ∧ step s = .next s) := by
  by_cases hs : s.seq = .busy
  · cases hi : s.inputs with
    | nil => exact .inl ⟨hs, step_engine hs (.inl hi)⟩
    | cons x rest =>
      by_cases hx : x = .wait
      · exact .inl ⟨hs, step_engine hs (.inr ⟨rest, hx ▸ hi⟩)⟩
      · exact .inr (.inr (.inl ⟨x, rest, rfl, .inl hs, step_busy_input hs hi hx⟩))
  · cases hh : s.held with
    | cons rv more => exact .inr (.inl ⟨hs, rv.1, rv.2, more, rfl, step_held hs hh⟩)
    | nil =>
      cases hi : s.inputs with
      | nil => exact .inr (.inr (.inr ⟨hs, rfl, rfl, step_quiet hs hh hi⟩))
      | cons x rest => exact .inr (.inr (.inl ⟨x, rest, rfl, .inr rfl, step_input hs hh hi⟩))

/-- What a host write can do. -/
theorem hostWrite_cases (r : Nat) (v : Word) (s : State) :
    hostWrite r v s = .next (s.writeCtrl v) ∨
      (s.seq = .idle ∧ hostWrite r v s = issueWord v s) ∨
      (s.seq = .busy ∧ hostWrite r v s = .next (s.hold r v)) ∨
      (s.seq = .idle ∧ ∃ reg, reg.isRw = true ∧ hostWrite r v s = .next (s.writeReg reg v)) ∨
      hostWrite r v s = .next s := by
  unfold hostWrite
  split
  · exact .inl rfl
  · cases hs : s.seq <;> simp
  · split
    · next reg _ _ hrw =>
      cases hs : s.seq
      · exact .inr (.inr (.inr (.inl ⟨rfl, _, hrw, rfl⟩)))
      · exact .inr (.inr (.inl ⟨rfl, rfl⟩))
      · simp
    · simp

/-- The next step after `withFetchWord` runs the placed command. -/
theorem step_withFetchWord (s : State) (nbits w : Nat) (i : Instr) (h : decodeTableWord nbits w = some i) :
    step (s.withFetchWord nbits w) =
      exec i ((s.withFetchWord nbits w).withInputs (heldActions s ++ s.inputs)) := by
  have hd : decode (tableWord nbits w) = .ok i := by
    unfold decodeTableWord at h
    split at h <;> simp_all
  rw [step_input (x := .write 3 (tableWord nbits w)) (rest := heldActions s ++ s.inputs) (by simp [State.withFetchWord, State.placeCommand]) rfl rfl]
  simp [hostStep, hostWrite, Reg.ofNumber, State.withFetchWord, State.placeCommand, State.withInputs, issueWord, hd]

end Sys2Proof.Machine
end

