-- ==== Sys2Proof/Laws/Vector.lean ====
section
/-! SUPPORT. The vector register file (rule R37): its shape, its registers read and replaced, and when a lane operation runs. -/

namespace Sys2Proof.Machine

/-! ### The shape of the file -/

@[simp] theorem freeFile_length (p : Platform) (n : Nat) : (freeFile p n).length = numVregs p := by simp [freeFile]

theorem freeFile_width (p : Platform) (n : Nat) : ∀ l ∈ freeFile p n, l.length = vbytes p := by simp [freeFile]

/-- A file of free values has the shape of the engine's file. -/
theorem fileShape_free {s : State} {n : Nat} (h : s.vfile = freeFile s.platform n) : FileShape s :=
  ⟨by rw [h]; exact freeFile_length _ _, by rw [h]; exact freeFile_width _ _⟩

/-- The shape depends on the file and the platform only. -/
theorem fileShape_congr {s t : State} (hp : t.platform = s.platform) (hf : t.vfile = s.vfile) (h : FileShape s) :
    FileShape t := ⟨by rw [hp, hf]; exact h.count, by rw [hp, hf]; exact h.width⟩

/-- Replacing the lanes of a register keeps the shape. -/
theorem fileShape_setLanes {s : State} (h : FileShape s) (r : Nat) {l : List Byte} (hl : l.length = vbytes s.platform) :
    FileShape (s.setLanes r l) := by
  refine ⟨by simpa using h.count, fun x hx => ?_⟩
  rcases List.mem_or_eq_of_mem_set hx with hx | rfl
  · exact h.width x hx
  · exact hl

/-! ### Registers -/

/-- A register of the file has VBYTES lanes. -/
theorem lanes_length {s : State} (h : FileShape s) {r : Nat} (hr : r < numVregs s.platform) :
    (s.lanes r).length = vbytes s.platform := by
  have hr' : r < s.vfile.length := by rw [h.count]; exact hr
  simp only [State.lanes, List.getD_eq_getElem?_getD, List.getElem?_eq_getElem hr', Option.getD_some]
  exact h.width _ (List.getElem_mem hr')

theorem lanes_setLanes {s : State} {r : Nat} (hr : r < s.vfile.length) (l : List Byte) : (s.setLanes r l).lanes r = l := by
  simp [State.lanes, State.setLanes, hr]

theorem lanes_setLanes_other (s : State) {r q : Nat} (hq : q ≠ r) (l : List Byte) :
    (s.setLanes r l).lanes q = s.lanes q := by
  simp [State.lanes, State.setLanes, List.getElem?_set_ne hq.symm]

/-! ### Lane operations -/

/-- An operation on registers of the file has its effect. -/
theorem laneStep_runs {op : LaneOp} {s : State} (h : ∀ r ∈ op.regs, r < s.vfile.length) :
    laneStep op s = laneEffect op s := by
  have : (op.regs.find? fun r => decide (s.vfile.length ≤ r)) = none := by
    simp only [List.find?_eq_none, decide_eq_true_eq, Nat.not_le]
    exact h
  simp [laneStep, this]

/-- An operation whose first register the file does not have stops. -/
theorem laneStep_noRegister {op : LaneOp} {s : State} {r : Nat} {rest : List Nat} (h : op.regs = r :: rest)
    (hr : s.vfile.length ≤ r) : laneStep op s = .error (.noRegister r) := by simp [laneStep, h, hr]

end Sys2Proof.Machine
end

