-- ==== Sys2Proof/Tests/Slice0.lean ====
section
/-! SUPPORT. Tests of the model, with expected values from the spec (95_test_vectors.md and the worked examples of the 4N
files), and for every obligation that has hypotheses a witness that meets them. -/

namespace Sys2Proof.Tests

open Sys2Proof Sys2Proof.Machine

-- One kernel evaluation after another: many at once would each take a thread's stack.
set_option Elab.async false

/-! ### Small states -/

/-- Backend 1 exists, VBYTES = 4, every address is mapped. -/
def plat : Platform := ⟨1, 2, 16, []⟩

/-- A column table from the pairs (PTR, LEN) of its first entries. -/
def table (cols : List (Nat × Nat)) : ColumnTable :=
  cols.zipIdx.foldl (fun t pc => t.setIfInBounds pc.2 ⟨0, 0, BitVec.ofNat 64 pc.1.2, BitVec.ofNat 64 pc.1.1, 0⟩)
    (Vector.replicate 258 Column.zero)

/-- Bytes from an address on. -/
def bytes (a : Nat) (l : List Byte) : List Host.Cell := l.zipIdx.map fun bi => (a + bi.2, bi.1)

/-- An IDLE engine with a map, targets and memory. -/
def engine (np : Nat) (cols : List (Nat × Nat)) (targets : List Nat) (cells : List Host.Cell) : State :=
  { State.resetWith plat (table cols) (Memory.writeAll [] cells) with
    nparity := BitVec.ofNat 64 np, ncols := BitVec.ofNat 64 cols.length,
    tgt0 := BitVec.ofNat 64 (targets.getD 0 0), tgt1 := BitVec.ofNat 64 (targets.getD 1 0),
    tgt2 := BitVec.ofNat 64 (targets.getD 2 0) }

/-- The columns of map M3 (program 2 of 95_test_vectors.md). -/
def m3cols : List (Nat × Nat) := [(0x1000, 2), (0x1010, 2), (0x1020, 2), (0x2000, 2), (0x2010, 2), (0x2020, 1)]

/-- The data of map M3, with the guard byte 77 after the short column. -/
def m3data : List Host.Cell := bytes 0x2000 [0x01, 0x02] ++ bytes 0x2010 [0x10, 0x20] ++ bytes 0x2020 [0xFF, 0x77]

/-- The parities of map M3 (rules R104 to R106). -/
def m3parity : List Host.Cell := bytes 0x1000 [0xEE, 0x22] ++ bytes 0x1010 [0xDB, 0x48] ++ bytes 0x1020 [0xAF, 0xA0]

/-- Map M3 with its data, parities not yet generated. -/
def m3 : State := engine 3 m3cols [3, 4, 5] m3data

/-- Map M3 with its parities and, as targets, the given map indices, whose bytes are lost. -/
def m3lost (targets : List Nat) : State :=
  engine 3 m3cols targets (m3parity ++ m3data ++ targets.flatMap fun t =>
    bytes ((m3cols.getD t (0, 0)).1) (List.replicate (m3cols.getD t (0, 0)).2 0))

/-- M2 and M1 of 95_test_vectors.md section 2.6: the same data with two parities or one. -/
def m2 (targets : List Nat) : State := engine 2 (m3cols.take 2 ++ m3cols.drop 3) targets m3data
def m1 (targets : List Nat) : State := engine 1 (m3cols.take 1 ++ m3cols.drop 3) targets m3data

/-- A map that is aligned to VBYTES = 4: L = 8, S = 4. -/
def mv : State :=
  engine 3 [(0x1000, 8), (0x1010, 8), (0x1020, 8), (0x2000, 8), (0x2010, 8), (0x2020, 4)] [3, 4, 5]
    (bytes 0x2000 [1, 2, 3, 4, 5, 6, 7, 8] ++ bytes 0x2010 [9, 10, 11, 12, 13, 14, 15, 16] ++ bytes 0x2020 [17, 18, 19, 20])

/-- M3 with one field of a column changed. -/
def m3with (c : Nat) (f : ColField) (v : Word) : State := m3.writeReg (.col c f) v

/-- M3 with other operands, another map size or shift, other targets. -/
def m3gf (a b : Word) : State := { m3 with gfa := a, gfb := b }
def m3size (np ncols shift : Word) : State := { m3 with nparity := np, ncols := ncols, colshift := shift }
def m3tgt (a b c : Word) : State := { m3 with tgt0 := a, tgt1 := b, tgt2 := c }

/-- M3 on a platform that lacks the byte at 0x2010 (F-41). -/
def m3hole : State := { m3 with platform := ⟨1, 2, 16, [⟨0x2010, 1⟩]⟩ }

/-- The next state of a command. No command of the model stops (`exec_next`), so the other cases do not arise. -/
def nextOf (i : Instr) (s : State) : State :=
  match exec i s with
  | .next t => t
  | .fault _ => s
  | .refused _ => s

theorem exec_nextOf (i : Instr) (s : State) : exec i s = .next (nextOf i s) := by
  obtain ⟨t, h⟩ := exec_next i s
  simp [nextOf, h]

/-- STATUS and FINFO after a command that faults at issue. -/
def faultOf (i : Instr) (s : State) : Word × Word := ((nextOf i s).statusWord, (nextOf i s).finfo)

/-- STATUS and some bytes of memory after a command that runs to its end. -/
def storedBy (i : Instr) (s : State) (addrs : List Nat) : Word × List Byte :=
  ((nextOf i (nextOf i s)).statusWord, addrs.map (nextOf i (nextOf i s)).mem.read)

/-- STATUS and GFR after a GF command on two operands. -/
def resultOf (i : Instr) (a b : Word) : Word × Word :=
  let s := { State.resetWith plat (table []) [] with gfa := a, gfb := b }
  ((nextOf i (nextOf i s)).statusWord, (nextOf i (nextOf i s)).gfr)

/-! ### Well-formedness: each check refuses an ill-formed term -/

theorem test_backend_too_large : (Instr.gen 16).wellFormed = false := by decide
theorem test_valid_too_large : (Instr.reconstruct 0 8 1).wellFormed = false := by decide
theorem test_count_too_large : (Instr.reconstruct 0 1 4).wellFormed = false := by decide
theorem test_reconstruct_backend_too_large : (Instr.reconstruct 16 1 1).wellFormed = false := by decide
theorem test_recpqr_backend_too_large : (Instr.recpqr 16).wellFormed = false := by decide
theorem test_largest_fields : (Instr.reconstruct 15 7 3).wellFormed = true := by decide

/-! ### Decoding: words of 95_test_vectors.md section 2.7, and words laid out field by field from rule R60 -/

theorem test_decode_gen : decode 0x11 = .ok (.gen 1) := by decide
theorem test_decode_genp : decode 0x2 = .ok (.genp 0) := by decide
theorem test_decode_genpq : decode 0x33 = .ok (.genpq 3) := by decide
theorem test_decode_genpqr : decode 0x4 = .ok (.genpqr 0) := by decide
theorem test_decode_rec : decode 0x2615 = .ok (.reconstruct 1 6 2) := by decide
theorem test_decode_rec_bits : decode 0b0011_0111_1111_0101 = .ok (.reconstruct 15 7 3) := by decide
theorem test_decode_rec_count_zero : decode 0x105 = .ok (.reconstruct 0 1 0) := by decide
theorem test_decode_recp : decode 0x6 = .ok (.recp 0) := by decide
theorem test_decode_recq : decode 0x7 = .ok (.recq 0) := by decide
theorem test_decode_recr : decode 0x8 = .ok (.recr 0) := by decide
theorem test_decode_recpq : decode 0x9 = .ok (.recpq 0) := by decide
theorem test_decode_recpr : decode 0xA = .ok (.recpr 0) := by decide
theorem test_decode_recqr : decode 0xB = .ok (.recqr 0) := by decide
theorem test_decode_recpqr : decode 0xFC = .ok (.recpqr 15) := by decide
theorem test_decode_gfexp2 : decode 0xD = .ok .gfexp2 := by decide
theorem test_decode_gfmul : decode 0xE = .ok .gfmul := by decide

/-- The illegal words F-1 to F-8 of section 2.6, and the highest reserved bit. -/
theorem test_decode_illegal :
    decode 0 = .error .reservedOpcode ∧ decode 0xF = .error .reservedOpcode ∧ decode 0x4001 = .error .reservedBits ∧
      decode 0x801 = .error .reservedBits ∧ decode 0x100000001 = .error .reservedBits ∧
      decode 0x8000000000000001 = .error .reservedBits ∧ decode 0x101 = .error .strayOperand ∧
      decode 0x1006 = .error .strayOperand ∧ decode 0x1E = .error .strayBackend := by decide

theorem test_table_word : decodeTableWord 64 0x2305 = some (.reconstruct 0 3 2) ∧ decodeTableWord 64 0xF = none := by decide

/-! ### GF(2^8): vectors of section 2.1 -/

theorem test_gfexp2_reduction : resultOf .gfexp2 0x80 1 = (0xD2, 0x1D) := by decide +kernel
theorem test_gfexp2_highest_index : resultOf .gfexp2 0x8E 255 = (0xD2, 0x8E) := by decide +kernel
theorem test_gfmul_product : resultOf .gfmul 0x53 0xCA = (0xE2, 0x8F) := by decide +kernel
theorem test_gfmul_zero : resultOf .gfmul 0xFF 0 = (0xE2, 0) := by decide +kernel

/-- The two operand faults of section 2.1: GFA is reported when both are too large. -/
theorem test_gf_operand_faults :
    faultOf .gfexp2 (m3gf 1 256) = (0x0B0004, 1) ∧ faultOf .gfmul (m3gf 256 256) = (0x0B0004, 0) := by decide +kernel

theorem test_table_entries :
    [9, 25, 127, 128, 253, 254, 255, 256, 263, 509, 510].map pow2 =
        [0x3A, 0x03, 0xCC, 0x85, 0x47, 0x8E, 0x01, 0x02, 0x1D, 0x8E, 0x01] ∧
      [0x01, 0x02, 0x03, 0x04, 0x1D, 0x51, 0x53, 0x80, 0x8E, 0xA7, 0xCA, 0xFF].map log2 =
        [0, 1, 25, 2, 8, 208, 206, 7, 254, 205, 73, 175] := by decide +kernel

theorem test_doubling :
    [0x00, 0x01, 0x40, 0x7F, 0x80, 0x81, 0xFF].map mul2 = [0x00, 0x02, 0x80, 0xFE, 0x1D, 0x1F, 0xE3] ∧
      [0x01, 0x40, 0x80, 0xC0, 0xFF].map mul4 = [0x04, 0x1D, 0x3A, 0x27, 0xDB] := by decide

theorem test_inverses :
    [0x01, 0x02, 0x03, 0x1E, 0xF4, 0xFF].map gfinv = [0x01, 0x8E, 0xF4, 0x4B, 0x03, 0xFD] := by decide +kernel

/-! ### Parity generation on map M3 (rules R104 to R106, vector G1 and the rows on direct kinds) -/

/-- The parity bytes of map M3. -/
def parityAddrs : List Nat := [0x1000, 0x1001, 0x1010, 0x1011, 0x1020, 0x1021]

theorem test_gen : storedBy (.gen 0) m3 parityAddrs = (0x42, [0xEE, 0x22, 0xDB, 0x48, 0xAF, 0xA0]) := by decide +kernel
theorem test_genp : storedBy (.genp 0) m3 parityAddrs = (0x22, [0xEE, 0x22, 0, 0, 0, 0]) := by decide +kernel
theorem test_genpq : storedBy (.genpq 0) m3 parityAddrs = (0x32, [0xEE, 0x22, 0xDB, 0x48, 0, 0]) := by decide +kernel
theorem test_genpqr : storedBy (.genpqr 0) m3 parityAddrs = (0x42, [0xEE, 0x22, 0xDB, 0x48, 0xAF, 0xA0]) := by
  decide +kernel
theorem test_gen_two_parities : (storedBy (.gen 0) (m2 []) [0x1000, 0x1011]) = (0x32, [0xEE, 0x48]) := by decide +kernel
theorem test_genp_bad_overlap_not_involved : (storedBy (.genp 0) (m3with 1 .ptr 0x1001) [0x1000]).1 = 0x22 := by
  decide +kernel
theorem test_genpq_missing_parity : faultOf (.genpq 0) (m1 []) = (0x060004, 3) := by decide +kernel
theorem test_genpqr_missing_parity : faultOf (.genpqr 0) (m2 []) = (0x060004, 4) := by decide +kernel

/-- VCTX is 1 exactly while a command on a wide-vector backend is BUSY (V-BK1). -/
theorem test_vector_context : (nextOf (.gen 1) mv).statusWord = 0x49 ∧ (storedBy (.gen 1) mv []).1 = 0x42 := by
  decide +kernel

/-! ### Reconstruction on map M3 (the examples of rules R126 to R132, section 2.3) -/

theorem test_recp : storedBy (.recp 0) (m3lost [4]) [0x2010, 0x2011] = (0x162, [0x10, 0x20]) := by decide +kernel
theorem test_recq : storedBy (.recq 0) (m3lost [3]) [0x2000, 0x2001] = (0x272, [0x01, 0x02]) := by decide +kernel
theorem test_recr_short : storedBy (.recr 0) (m3lost [5]) [0x2020, 0x2021] = (0x482, [0xFF, 0x77]) := by decide +kernel
theorem test_recpq_gated :
    storedBy (.recpq 0) (m3lost [3, 5]) [0x2000, 0x2001, 0x2020, 0x2021] = (0x392, [0x01, 0x02, 0xFF, 0x77]) := by
  decide +kernel
theorem test_recpr :
    storedBy (.recpr 0) (m3lost [3, 4]) [0x2000, 0x2001, 0x2010, 0x2011] = (0x5A2, [0x01, 0x02, 0x10, 0x20]) := by
  decide +kernel
theorem test_recqr :
    storedBy (.recqr 0) (m3lost [4, 5]) [0x2010, 0x2011, 0x2020, 0x2021] = (0x6B2, [0x10, 0x20, 0xFF, 0x77]) := by
  decide +kernel
theorem test_recpqr :
    storedBy (.recpqr 0) (m3lost [3, 4, 5]) [0x2000, 0x2001, 0x2010, 0x2011, 0x2020, 0x2021] =
      (0x7C2, [0x01, 0x02, 0x10, 0x20, 0xFF, 0x77]) := by decide +kernel
/-- Program 2: REC with three valid parities and two targets selects RecPQ. -/
theorem test_rec : storedBy (.reconstruct 0 7 2) (m3lost [3, 5]) [0x2000, 0x2001, 0x2020] = (0x392, [0x01, 0x02, 0xFF]) := by
  decide +kernel
/-- RecPQ with a wrong byte of P: both unknowns are wrong, without a fault (rule R138). -/
theorem test_recpq_wrong_parity :
    storedBy (.recpq 0) { m3lost [3, 5] with mem := (m3lost [3, 5]).mem.write 0x1000 0xEF } [0x2000, 0x2020] =
      (0x392, [0xA6, 0x59]) := by decide +kernel

/-! ### Faults (section 2.6) -/

theorem test_fault_bad_backend : faultOf (.gen 2) m3 = (0x020004, 2) := by decide +kernel
theorem test_fault_parity_count_64_bits : faultOf (.gen 0) (m3size 0x100000003 6 0) = (0x030004, 0x100000003) := by
  decide +kernel
theorem test_fault_bus_error : (nextOf (.gen 0) (nextOf (.gen 0) m3hole)).statusWord = 0x0C0044 ∧
    (nextOf (.gen 0) (nextOf (.gen 0) m3hole)).finfo = 0x2010 := by decide +kernel
theorem test_fault_rec_target : faultOf (.reconstruct 0 6 3) (m3lost [4, 5]) = (0x070004, 2) := by decide +kernel
theorem test_fault_recp_overlap : faultOf (.recp 0) { m3with 3 .ptr 0x1000 with tgt0 := 3 } = (0x090004, 0x30000) := by
  decide +kernel
theorem test_fault_recq_missing : faultOf (.recq 0) (m1 [1]) = (0x060004, 7) := by decide +kernel
theorem test_fault_recr_priority : faultOf (.recr 0) (m2 [0]) = (0x060004, 8) := by decide +kernel
theorem test_fault_recpr_missing : faultOf (.recpr 0) (m2 [2, 3]) = (0x060004, 0xA) := by decide +kernel
theorem test_fault_recqr_missing : faultOf (.recqr 0) (m2 [2, 3]) = (0x060004, 0xB) := by decide +kernel

/-! ### Control, registers and steps (section 2.5) -/

/-- ACK after a command clears DONE and keeps KIND; CTRL bit 0 wins over bit 1. -/
theorem test_control :
    ((nextOf .gfmul (nextOf .gfmul m3)).writeCtrl 2).statusWord = 0xE0 ∧
      ((nextOf .gfmul (nextOf .gfmul m3)).writeCtrl 3).statusWord = 0 := by decide +kernel

/-- CAP of the engine V-BK1 and of an engine without a wide-vector backend. -/
theorem test_cap : capWord ⟨1, 4, 16, []⟩ = 0x10040003 ∧ capWord ⟨0, 4, 16, []⟩ = 0x1 := by decide +kernel

/-- Register numbers of section 2.7. -/
theorem test_register_numbers :
    Reg.ofNumber 258 = .col 0 .len ∧ Reg.ofNumber 299 = .col 5 .ptr ∧ Reg.ofNumber 2316 = .col 257 .flags ∧
      Reg.ofNumber 261 = .reserved ∧ Reg.ofNumber 2320 = .reserved ∧ (Reg.col 257 .flags).number = 2316 := by
  decide +kernel

/-- The next step after `withFetchWord` runs the placed command, from reset: F-11. -/
theorem test_step_from_reset : ∃ t, step (State.reset.withFetchWord 64 0x1) = .next t ∧ t.statusWord = 0x030004 := by
  refine ⟨_, step_withFetchWord State.reset 64 0x1 (.gen 0) (by decide) |>.trans (exec_nextOf _ _), ?_⟩
  decide +kernel

/-! ### Lane operations (section 2.4) -/

theorem test_lanes :
    let s := { mv with mem := Memory.writeAll [] (bytes 0x40 [0x01, 0x80, 0xFF, 0x40]) }
    let run := fun ops => match runLanes ops s with
      | .ok t => t.lanes 0
      | .error _ => []
    run [.vload 0 0x40] = [0x01, 0x80, 0xFF, 0x40] ∧ run [.vload 0 0x40, .vmul2 0] = [0x02, 0x1D, 0xE3, 0x80] ∧
      run [.vload 0 0x40, .vmul4 0] = [0x04, 0x3A, 0xDB, 0x1D] ∧ run [.vload 0 0x40, .vxor 0 0] = [0, 0, 0, 0] ∧
      run ([.vload 0 0x40, .vload 1 0x40, .vload 2 0x40] ++ mulConstOps 0 1 2 5) = [0x05, 0xBA, 0x24, 0x5D] := by decide +kernel

/-- The kernel of rule R159 on the aligned map stores what the command does, here from registers that hold some bytes. -/
theorem test_kernel :
    (match runLanes (genKernel 4 mv.mapOf) { mv with vfile := List.replicate 4 [9, 9, 9, 9] } with
      | .ok t => parityAddrs.map t.mem.read
      | .error _ => []) = (storedBy (.genpqr 1) mv parityAddrs).2 := by decide +kernel

/-- Reconstruction in lane operations gives back the lost data, here the second and the third column of the aligned map, from
its parities, and does not store beyond the short one. -/
theorem test_reconstruction_kernel :
    (let s := nextOf (.gen 0) (nextOf (.gen 0) mv);
      let lost := s.mem.writeAll (bytes 0x2010 (List.replicate 8 0) ++ bytes 0x2020 [0, 0, 0, 0, 7, 7, 7, 7]);
      match runLanes (recKernel 4 .recQR mv.mapOf [4, 5]) { s with mem := lost, vfile := List.replicate 4 [9, 9, 9, 9] } with
      | .ok t => (List.range 8).map (fun j => (t.mem.read (0x2010 + j), t.mem.read (0x2020 + j)))
      | .error _ => []) =
    [(9, 17), (10, 18), (11, 19), (12, 20), (13, 7), (14, 7), (15, 7), (16, 7)] := by decide +kernel

/-- A file of four registers has no register 4, and an engine without a wide-vector backend has none. -/
theorem test_no_register :
    numVregs plat = 16 ∧ numVregs ⟨0, 2, 16, []⟩ = 0 ∧
      (match laneStep (.vmul2 4) { mv with vfile := List.replicate 4 [9, 9, 9, 9] } with
        | .error e => some e
        | .ok _ => none) = some (.noRegister 4) := by decide +kernel

/-! ### How the witnesses below meet their hypotheses -/

/-- A state whose checks pass is acceptable. -/
theorem acceptable_of_checks {i : Instr} {k : Kind} {s : State} (hm : i.isMap = true) (hs : s.seq = .idle)
    (hb : checksBeforeKind i.backend s = none) (hk : selectOf i s = .ok k) (ha : checksAfterKind i.backend s k = none) :
    Acceptable i k s := by
  have hv := (checksBeforeKind_none _ _).mp hb
  have hk' := (selectOf_ok i hm s hv.2 k).mp hk
  have ha' := (checksAfterKind_none _ _ _).mp ha
  exact ⟨hs, hv.1, hk'.1, ⟨hv.2, hk'.2.1, hk'.2.2.1, hk'.2.2.2, ha'.1⟩, ha'.2⟩

theorem validMap_of_checks {s : State} (h : checksBeforeKind 0 s = none) : ValidMap s.mapOf :=
  ((checksBeforeKind_none 0 s).mp h).2

theorem allMapped_of_list {p : Platform} {k : Kind} {m : RaidzMap} {targets : List Nat}
    (h : unmappedIn p (writeSpans k m targets ++ readSpans k m targets) = []) : AllMapped p k m targets := by
  intro g hg a ha
  by_contra hn
  have := (mem_unmappedIn p _ a).mpr ⟨⟨g, hg, ha⟩, by simpa using hn⟩
  rw [h] at this
  cases this

/-- An IDLE engine without a fault record is consistent. -/
theorem engine_consistent (np : Nat) (cols : List (Nat × Nat)) (targets : List Nat) (cells : List Host.Cell)
    (xs : List HostAction) : Consistent ((engine np cols targets cells).withInputs xs) := by
  constructor
  case vectorFile => exact fileShape_free rfl
  all_goals simp [engine, State.withInputs, State.resetWith, kindUsed]

/-- The command that a BUSY engine runs. -/
def running (i : Instr) (k : Kind) (s : State) : Latch := s.latch i i.backend k

/-- The BUSY state after acceptance of a map command. -/
def busy (i : Instr) (k : Kind) (s : State) : State := s.accept (running i k s)

theorem running_valid {i : Instr} {k : Kind} {s : State} (hm : i.isMap = true) (h : Acceptable i k s) :
    ValidLatch (running i k s) :=
  ⟨rfl, fun h' => by simp [running, State.latch, hm] at h', fun _ => ⟨h.kind, h.job⟩⟩

theorem busy_consistent {i : Instr} {k : Kind} {np : Nat} {cols : List (Nat × Nat)} {targets : List Nat}
    {cells : List Host.Cell} (hm : i.isMap = true) (h : Acceptable i k (engine np cols targets cells)) :
    Consistent (busy i k (engine np cols targets cells)) := by
  refine ⟨?_, ?_, ?_, ?_, fun _ => rfl, rfl, ?_, ?_, ?_, fileShape_free rfl⟩
  · simp [busy, State.accept]
  · simp [busy, State.accept]
  · simp only [busy, State.accept, running, State.latch]
    exact ⟨fun hd => ⟨_, rfl, of_decide_eq_true hd⟩, fun ⟨l, hl, hb⟩ => by cases hl; exact decide_eq_true hb⟩
  · simp [busy, State.accept, engine, State.resetWith]
  · simp [busy, State.accept, engine, State.resetWith]
  · intro l hl
    cases hl
    rfl
  · intro l hl
    cases hl
    exact running_valid hm h

theorem m3_gen : Acceptable (.gen 0) .genPQR m3 :=
  acceptable_of_checks rfl rfl (by decide +kernel) (by decide +kernel) (by decide +kernel)

theorem m3_recpq : Acceptable (.recpq 0) .recPQ (m3lost [3, 5]) :=
  acceptable_of_checks rfl rfl (by decide +kernel) (by decide +kernel) (by decide +kernel)

theorem mv_genpqr_wide : Acceptable (.genpqr 1) .genPQR mv :=
  acceptable_of_checks rfl rfl (by decide +kernel) (by decide +kernel) (by decide +kernel)

theorem m3_valid : ValidMap m3.mapOf := m3_gen.job.validMap

/-! ### Witnesses: encoding and field -/

theorem witness_DecodeInvertsEncode :
    (Instr.reconstruct 15 7 3).wellFormed = true ∧ (Instr.gen 0).wellFormed = true ∧ Instr.gfmul.wellFormed = true := by
  decide

theorem witness_EncodeInvertsDecode : decode 0x3705 = .ok (.reconstruct 0 7 3) := by decide

/-- One illegal word for each disjunct of rule R65, at its boundaries; the states of the second and third clause. -/
theorem witness_IllegalCommands :
    (bitField 0 0 4 = 0 ∧ bitField 0xF 0 4 = 15 ∧ bitField 0x4001 14 50 ≠ 0 ∧ bitField 0x8000000000000001 14 50 ≠ 0 ∧
      bitField 0x801 11 1 ≠ 0 ∧ (bitField 0x101 0 4 ≠ 5 ∧ bitField 0x101 8 3 ≠ 0) ∧
      (bitField 0x1006 0 4 ≠ 5 ∧ bitField 0x1006 12 2 ≠ 0) ∧ (bitField 0x1E 0 4 = 14 ∧ bitField 0x1E 4 4 ≠ 0)) ∧
    (let s := m3.withInputs [.write 3 0x1E];
      (∃ e, decode 0x1E = .error e) ∧ s.seq = .idle ∧ s.held = [] ∧ s.inputs = .write 3 0x1E :: []) ∧
    (0 < 16 ∧ 7 < 8 ∧ m3.seq = .idle ∧ backendSupported m3.platform 0 = true ∧ ValidMap m3.mapOf) :=
  ⟨by decide, ⟨⟨.strayBackend, by decide⟩, rfl, rfl, rfl⟩, by decide, by decide, rfl, rfl, m3_valid⟩

theorem witness_TableInvariant : (1 : Byte) ≠ 0 ∧ (0xFF : Byte) ≠ 0 ∧ 254 ≤ 254 ∧ pow2 254 = 0x8E := by decide +kernel

theorem witness_TableProperties : (0x8E : Byte) ≠ 0 ∧ 255 ≤ 255 ∧ 510 ≤ 510 ∧ 255 + log2 0x8E = 509 := by decide +kernel

theorem witness_FieldAxioms : (0x01 : Byte) ≠ 0 ∧ (0xFF : Byte) ≠ 0 ∧ gfmul 0xFF 0xFD = 1 := by decide +kernel

theorem witness_FieldLaws : (0x8E : Byte) ≠ 0 ∧ 0 ≤ 255 ∧ 255 ≤ 255 := by decide

theorem witness_ColumnCoefficients :
    (1 ≤ 1 ∧ 1 ≤ 255 ∧ 0 < 1) ∧ (1 ≤ 255 ∧ 255 ≤ 255 ∧ 0 < 255 ∧ 254 < 255 ∧ 0 ≠ 254) ∧ (m3.mapOf).n = 3 := by
  decide +kernel

/-- The operand clauses at their boundaries, 255 and 256, and a legal and an illegal word with OP = 13. -/
theorem witness_Gfexp2Command :
    bitField 0xD 0 4 = 13 ∧ bitField 0x1D 0 4 = 13 ∧ m3.seq = .idle ∧
      255 < (m3gf 256 0).gfa.toNat ∧ 255 < (m3gf 0 256).gfb.toNat ∧ (m3gf 255 255).gfa.toNat ≤ 255 ∧
      (m3gf 255 255).gfb.toNat ≤ 255 := by
  decide +kernel

/-- The same for GFMUL. -/
theorem witness_GfmulCommand :
    bitField 0xE 0 4 = 14 ∧ bitField 0x1E 0 4 = 14 ∧ m3.seq = .idle ∧ 255 < (m3gf 256 256).gfa.toNat ∧
      255 < (m3gf 0 256).gfb.toNat ∧ (m3gf 0 255).gfa.toNat ≤ 255 ∧ (m3gf 0 255).gfb.toNat ≤ 255 := by decide +kernel

/-! ### Witnesses: acceptance, one for each map command -/

theorem witness_AcceptedExactlyWhenAcceptable_generation :
    Acceptable (.gen 0) .genPQR m3 ∧ Acceptable (.genp 0) .genP m3 ∧ Acceptable (.genpq 0) .genPQ m3 ∧
      Acceptable (.genpqr 1) .genPQR mv ∧ Acceptable (.gen 0) .genPQ (m2 []) ∧ Acceptable (.gen 0) .genP (m1 []) := by
  refine ⟨m3_gen, ?_, ?_, mv_genpqr_wide, ?_, ?_⟩ <;>
    exact acceptable_of_checks rfl rfl (by decide +kernel) (by decide +kernel) (by decide +kernel)

theorem witness_AcceptedExactlyWhenAcceptable_single :
    Acceptable (.recp 0) .recP (m3lost [5]) ∧ Acceptable (.recq 0) .recQ (m3lost [3]) ∧
      Acceptable (.recr 0) .recR (m3lost [4]) ∧ Acceptable (.reconstruct 0 4 1) .recR (m3lost [4]) := by
  refine ⟨?_, ?_, ?_, ?_⟩ <;>
    exact acceptable_of_checks rfl rfl (by decide +kernel) (by decide +kernel) (by decide +kernel)

theorem witness_AcceptedExactlyWhenAcceptable_several :
    Acceptable (.recpq 0) .recPQ (m3lost [3, 5]) ∧ Acceptable (.recpr 0) .recPR (m3lost [3, 4]) ∧
      Acceptable (.recqr 0) .recQR (m3lost [4, 5]) ∧ Acceptable (.recpqr 0) .recPQR (m3lost [3, 4, 5]) ∧
      Acceptable (.reconstruct 0 7 3) .recPQR (m3lost [3, 4, 5]) := by
  refine ⟨m3_recpq, ?_, ?_, ?_, ?_⟩ <;>
    exact acceptable_of_checks rfl rfl (by decide +kernel) (by decide +kernel) (by decide +kernel)

/-- The second clause: an issue that ends BUSY. -/
theorem witness_AcceptedExactlyWhenAcceptable_busy :
    exec (.gen 0) m3 = .next (nextOf (.gen 0) m3) ∧ (nextOf (.gen 0) m3).seq = .busy :=
  ⟨exec_nextOf _ _, by decide +kernel⟩

/-! ### Witnesses: faults at issue -/

theorem witness_IssueFaultChangesOnlyTheRecord :
    let s := m3.withInputs [.write 3 0x22]
    Consistent s ∧ s.seq = .idle ∧ s.held = [] ∧ s.inputs = .write 3 0x22 :: [] ∧ ∃ t, step s = .next t ∧ t.seq = .fault := by
  refine ⟨engine_consistent _ _ _ _ _, rfl, rfl, rfl, ?_⟩
  rw [step_input (x := .write 3 0x22) (rest := []) (by decide +kernel) rfl rfl]
  have hd : decode 0x22 = .ok (.genp 2) := by decide
  refine ⟨nextOf (.genp 2) ((m3.withInputs [.write 3 0x22]).withInputs []), ?_, by decide +kernel⟩
  have hs : m3.seq = .idle := rfl
  simp only [hostStep, hostWrite, Reg.ofNumber, State.withInputs, hs, issueWord, hd, exec_nextOf]

theorem witness_UnsupportedBackendFaults :
    (Instr.gen 2).isMap = true ∧ m3.seq = .idle ∧ backendSupported m3.platform (Instr.gen 2).backend = false ∧
      backendSupported m3.platform (Instr.recp 15).backend = false := by decide +kernel

theorem witness_BadParityCountFaults :
    (Instr.gen 0).isMap = true ∧ m3.seq = .idle ∧ backendSupported m3.platform 0 = true ∧
      ((m3size 0 6 0).nparity ≠ 1 ∧ (m3size 0 6 0).nparity ≠ 2 ∧ (m3size 0 6 0).nparity ≠ 3) ∧
      ((m3size 4 6 0).nparity ≠ 1 ∧ (m3size 4 6 0).nparity ≠ 2 ∧ (m3size 4 6 0).nparity ≠ 3) ∧
      (m3size 0x100000003 6 0).nparity ≠ 1 ∧ (m3size 0x100000003 6 0).nparity ≠ 2 ∧
      (m3size 0x100000003 6 0).nparity ≠ 3 := by decide +kernel

/-- Each clause of MAP_INVALID: NCOLS = 3 and 259, COLSHIFT = 64, and rows F-17, F-18, F-19, F-20 of section 2.6. -/
theorem witness_MapInvalidReportsFirstDefect :
    (1 ≤ m3.nparity.toNat ∧ m3.nparity.toNat ≤ 3 ∧ backendSupported m3.platform 0 = true) ∧
    ((m3size 3 3 0).mapOf.ncols < (m3size 3 3 0).mapOf.np + 1 ∧
      (m3size 3 259 0).mapOf.ncols > (m3size 3 259 0).mapOf.np + 255) ∧
    (m3size 3 6 64).mapOf.colshift ≥ 64 ∧
    faultOf (.gen 0) (m3with 1 .len 3) = (0x040004, 0x30001) ∧ faultOf (.gen 0) (m3with 4 .len 1) = (0x040004, 0x40004) ∧
    faultOf (.gen 0) (m3with 5 .len 3) = (0x040004, 0x40005) ∧
    faultOf (.gen 0) (m3size 3 6 1) = (0x040004, 0x50005) := by decide +kernel

/-- The hypotheses on the columns, for the rows of the witness above. -/
theorem witness_MapInvalidReportsFirstDefect_columns :
    (let m := (m3with 1 .len 3).mapOf;
      m.np + 1 ≤ m.ncols ∧ m.ncols ≤ m.np + 255 ∧ m.colshift < 64 ∧ 1 < m.ncols ∧ columnDefect m 0 = none ∧
        (1 < m.np ∧ (m.col 1).len ≠ m.commonLen)) ∧
    (let m := (m3with 5 .len 3).mapOf;
      5 < m.ncols ∧ (∀ c, c < 5 → columnDefect m c = none) ∧ ¬5 < m.np ∧ 5 = m.ncols - 1 ∧ (m.col 5).len > m.commonLen) ∧
    (let m := (m3size 3 6 1).mapOf;
      (∀ c, c < 5 → columnDefect m c = none) ∧ ¬5 < m.np ∧ ¬(m.col 5).len > m.commonLen ∧
        (m.col 5).len % 2 ^ m.colshift ≠ 0) := by decide +kernel

/-- F-21: the fifth column ends one byte above the address space. -/
theorem witness_WrappingColumnFaults :
    let s := m3with 4 .ptr 0xFFFFFFFFFFFFFFFF
    s.seq = .idle ∧ backendSupported s.platform 0 = true ∧ checkParityCount s = none ∧ checkMap s = none ∧
      4 < s.mapOf.ncols ∧ (s.mapOf.col 4).ptr + (s.mapOf.col 4).len > 2 ^ 64 ∧
      ∀ c', c' < 4 → (s.mapOf.col c').ptr + (s.mapOf.col c').len ≤ 2 ^ 64 := by decide +kernel

theorem witness_MissingParityFaults :
    (m1 [1]).seq = .idle ∧ backendSupported (m1 [1]).platform 0 = true ∧ ValidMap (m1 [1]).mapOf ∧ (m1 [1]).mapOf.np < 2 ∧
      ValidMap (m2 [2, 3]).mapOf ∧ (m2 [2, 3]).mapOf.np < 3 :=
  ⟨rfl, rfl, validMap_of_checks (by decide +kernel), by decide +kernel, validMap_of_checks (by decide +kernel),
    by decide +kernel⟩

/-- TCNT = 0; the first register a parity column (F-29); the second equal to the first (F-31); the third equal to the second
(F-33). -/
theorem witness_BadTargetReportsFirstRegister :
    (m3.seq = .idle ∧ backendSupported m3.platform 0 = true ∧ ValidMap m3.mapOf ∧ (kindFor (.recpqr 0) 3).isSome = true) ∧
    (¬m3.mapOf.np ≤ ((m3tgt 2 0 0).targetRegs).getD 0 0 ∧
      (let r := (m3tgt 4 4 0).targetRegs;
        (3 ≤ r.getD 0 0 ∧ r.getD 0 0 < 6) ∧ ¬r.getD 0 0 < r.getD 1 0) ∧
      let r := (m3tgt 3 4 4).targetRegs;
      (3 ≤ r.getD 0 0 ∧ r.getD 0 0 < 6) ∧ (3 ≤ r.getD 1 0 ∧ r.getD 1 0 < 6 ∧ r.getD 0 0 < r.getD 1 0) ∧
        ¬r.getD 1 0 < r.getD 2 0) :=
  ⟨⟨rfl, rfl, m3_valid, rfl⟩, by decide +kernel⟩

theorem witness_RecSelectsByTable :
    (m3lost [3, 5]).seq = .idle ∧ backendSupported (m3lost [3, 5]).platform 0 = true ∧
      ValidMap (m3lost [3, 5]).mapOf ∧ ValidTargets 2 (m3lost [3, 5]).mapOf ((m3lost [3, 5]).targets 2) ∧
      7 < 2 ^ (m3lost [3, 5]).mapOf.np ∧ NoOverlap .recPQ (m3lost [3, 5]).mapOf ((m3lost [3, 5]).targets 2) :=
  ⟨rfl, rfl, m3_recpq.job.validMap, m3_recpq.job.recTargets rfl, by decide +kernel, m3_recpq.job.noOverlap⟩

/-- F-34, F-35b: VALID = 0, the cell (0, 1), and VALID = 4 on a map with two parities. -/
theorem witness_NoRoutineFaults :
    m3.seq = .idle ∧ backendSupported m3.platform 0 = true ∧ ValidMap m3.mapOf ∧
      ((0, 1) : Nat × Nat) ∈ [(0, 1), (0, 2), (0, 3), (1, 2), (1, 3), (2, 2), (2, 3), (3, 3), (4, 2), (4, 3), (5, 3), (6, 3)] ∧
      ValidTargets 1 m3.mapOf (m3.targets 1) ∧ 2 ^ (m2 [2]).mapOf.np ≤ 4 ∧
      ValidTargets 1 (m2 [2]).mapOf ((m2 [2]).targets 1) ∧ ValidMap (m2 [2]).mapOf :=
  ⟨rfl, rfl, m3_valid, by decide, (checkTargets_none (by decide) (by decide +kernel)).mp (by decide +kernel),
    by decide +kernel, (checkTargets_none (by decide) (by decide +kernel)).mp (by decide +kernel),
    validMap_of_checks (by decide +kernel)⟩

/-- F-35d: P lies over the first data column; the pair (0, 3) is the least. -/
theorem witness_OverlapReportsLeastPair :
    let s := m3with 0 .ptr 0x2001
    s.seq = .idle ∧ backendSupported s.platform 0 = true ∧ ValidMap s.mapOf ∧ kindFor (.gen 0) s.mapOf.np = some .genPQR ∧
      0 ∈ writtenCols .genPQR (s.targets 0) ∧ 3 ∈ involvedCols .genPQR s.mapOf (s.targets 0) ∧ 3 ≠ 0 ∧
      (∃ a, (s.mapOf.col 0).contains a = true ∧ (s.mapOf.col 3).contains a = true) ∧
      ∀ w' ∈ writtenCols .genPQR (s.targets 0), ∀ c' ∈ involvedCols .genPQR s.mapOf (s.targets 0), c' ≠ w' →
        (∃ a, (s.mapOf.col w').contains a = true ∧ (s.mapOf.col c').contains a = true) → 0 < w' ∨ (0 = w' ∧ 3 ≤ c') := by
  refine ⟨rfl, rfl, validMap_of_checks (by decide +kernel), by decide +kernel, by decide +kernel, by decide +kernel,
    by decide, ⟨0x2001, by decide +kernel⟩, ?_⟩
  simp only [← overlaps_iff]
  decide +kernel

theorem witness_ReadColumnsMayOverlap :
    let s := { m3with 4 .ptr 0x2020 with tgt0 := 3 }
    Acceptable (.recp 0) .recP s ∧ (s.mapOf.col 4).overlaps (s.mapOf.col 5) = true :=
  ⟨acceptable_of_checks rfl rfl (by decide +kernel) (by decide +kernel) (by decide +kernel), by decide +kernel⟩

/-- M3 on the scalar backend; and on backend 1, where map index 0 is the first whose LEN is no multiple of 4 (F-36). -/
theorem witness_UnalignedColumnFaults :
    ValidJob .genPQR m3.mapOf (m3.targets 0) ∧ kindFor (.gen 1) m3.mapOf.np = some .genPQR ∧
      backendSupported m3.platform 1 = true ∧ (Instr.gen 1).backend ≠ 0 ∧
      0 ∈ involvedCols .genPQR m3.mapOf (m3.targets 0) ∧ ¬vbytes m3.platform ∣ (m3.mapOf.col 0).len ∧
      ∀ c' ∈ involvedCols .genPQR m3.mapOf (m3.targets 0), ¬c' < 0 :=
  ⟨m3_gen.job, by decide +kernel, by decide +kernel, by decide, by decide +kernel, by decide +kernel, by decide +kernel⟩

/-! ### Witnesses: generation and reconstruction -/

/-- An offset below S and one from S on. -/
theorem witness_TwoPhaseComputesParity :
    ValidMap m3.mapOf ∧ 0 < m3.mapOf.commonLen ∧ 1 < m3.mapOf.commonLen ∧ 0 < m3.mapOf.shortLen ∧ ¬1 < m3.mapOf.shortLen :=
  ⟨m3_valid, by decide +kernel, by decide +kernel, by decide +kernel, by decide +kernel⟩

theorem witness_GenerationWritesParity :
    Instr.gen 0 ∈ genFamily 0 ∧ Acceptable (.gen 0) .genPQR m3 ∧ AllMapped m3.platform .genPQR m3.mapOf [] :=
  ⟨by decide, m3_gen, allMapped_of_list (by decide +kernel)⟩

theorem witness_GenerationRepeats :
    Instr.genpqr 1 ∈ genFamily 1 ∧ Acceptable (.genpqr 1) .genPQR mv ∧ AllMapped mv.platform .genPQR mv.mapOf [] :=
  ⟨by decide, mv_genpqr_wide, allMapped_of_list (by decide +kernel)⟩

theorem witness_DirectKindLeavesOtherParities :
    Acceptable (.genp 0) .genP m3 ∧ exec (.genp 0) m3 = .next (nextOf (.genp 0) m3) ∧
      exec (.genp 0) (nextOf (.genp 0) m3) = .next (nextOf (.genp 0) (nextOf (.genp 0) m3)) ∧ 2 < m3.mapOf.np ∧
      2 ∉ Kind.parities .genP ∧
      ∀ q ∈ Kind.parities .genP, ∀ a, ¬((m3.mapOf.col q).contains a = true ∧ (m3.mapOf.col 2).contains a = true) := by
  refine ⟨witness_AcceptedExactlyWhenAcceptable_generation.2.1, exec_nextOf _ _, exec_nextOf _ _, by decide +kernel,
    by decide, fun q hq a h => ?_⟩
  obtain rfl : q = 0 := by simpa [Kind.parities] using hq
  have : (m3.mapOf.col 0).overlaps (m3.mapOf.col 2) = true := (overlaps_iff _ _).mpr ⟨a, h⟩
  revert this
  decide +kernel

theorem witness_ReconstructionStoresSolution :
    Instr.recpq 0 ∈ recFamily 0 0 0 ∧ Acceptable (.recpq 0) .recPQ (m3lost [3, 5]) ∧
      AllMapped (m3lost [3, 5]).platform .recPQ (m3lost [3, 5]).mapOf ((m3lost [3, 5]).targets 2) ∧
      0 < Kind.targetCount .recPQ ∧ 1 < Kind.targetCount .recPQ :=
  ⟨by decide, m3_recpq, allMapped_of_list (by decide +kernel), by decide, by decide⟩

/-- The targets of map M3, the parities of its data, and the lost bytes as a solution at offset 0. -/
theorem witness_RecoveredBytesAreTheSolution :
    let s := engine 3 m3cols [3, 4, 5] (m3parity ++ m3data)
    ValidMap s.mapOf ∧ (∀ p ∈ Kind.parities .recPQR, p < s.mapOf.np) ∧ ValidTargets 3 s.mapOf (s.targets 3) ∧
      SolvesSystem .recPQR s.mapOf (s.targets 3) s.mem 0 [0x01, 0x10, 0xFF] ∧
      ParityConsistent .recPQR s.mapOf s.mem ∧ 0 < s.mapOf.commonLen := by
  refine ⟨validMap_of_checks (by decide +kernel), by decide +kernel,
    (checkTargets_none (by decide) (by decide +kernel)).mp (by decide +kernel), ?_, ?_, by decide +kernel⟩
  · unfold SolvesSystem; decide +kernel
  · unfold ParityConsistent; decide +kernel

/-- Generate on M3, lose the first and the last data column, reconstruct with RecPQ. -/
theorem witness_GenerateThenReconstructRestores :
    let s₂ := nextOf (.gen 0) (nextOf (.gen 0) m3)
    let lost := bytes 0x2000 [0, 0] ++ bytes 0x2020 [0]
    let u : State := { s₂ with tgt0 := 3, tgt1 := 5, mem := s₂.mem.writeAll lost }
    AllMapped m3.platform .genPQR m3.mapOf [] ∧ exec (.gen 0) m3 = .next (nextOf (.gen 0) m3) ∧
      exec (.gen 0) (nextOf (.gen 0) m3) = .next s₂ ∧ u.mapOf = m3.mapOf ∧ Acceptable (.reconstruct 0 7 2) .recPQ u ∧
      AllMapped u.platform .recPQ u.mapOf (u.targets 2) ∧ (∀ p ∈ Kind.parities .recPQ, p ∈ Kind.parities .genPQR) ∧
      ∀ a, (∀ t ∈ u.targets 2, (u.mapOf.col t).contains a = false) → u.mem.read a = s₂.mem.read a := by
  intro s₂ lost u
  refine ⟨allMapped_of_list (by decide +kernel), exec_nextOf _ _, exec_nextOf _ _, by decide +kernel,
    acceptable_of_checks rfl (by decide +kernel) (by decide +kernel) (by decide +kernel) (by decide +kernel),
    allMapped_of_list (by decide +kernel), by decide, fun a ha => ?_⟩
  apply Memory.read_writeAll_other
  have inTargets : ∀ c ∈ lost, ∃ t ∈ u.targets 2, (u.mapOf.col t).contains c.1 = true := by decide +kernel
  intro c hc he
  obtain ⟨t, ht, hct⟩ := inTargets c hc
  rw [he, ha t ht] at hct
  cases hct

/-! ### Witnesses: the data pass -/

theorem witness_OnlyWriteSetChanges :
    (busy (.gen 0) .genPQR m3).seq = .busy ∧ (busy (.gen 0) .genPQR m3).latched = some (running (.gen 0) .genPQR m3) ∧
      ValidLatch (running (.gen 0) .genPQR m3) ∧ (running (.gen 0) .genPQR m3).writes 0x0FFF = false ∧
      (running (.gen 0) .genPQR m3).writes 0x1002 = false ∧ (running (.gen 0) .genPQR m3).writes 0x1001 = true :=
  ⟨rfl, rfl, running_valid rfl m3_gen, by decide +kernel, by decide +kernel, by decide +kernel⟩

/-- Two memories that differ in a byte of P, which a generation does not read. -/
theorem witness_ResultDependsOnReadSetOnly :
    let l := running (.gen 0) .genPQR m3
    l.instr.isMap = true ∧ ValidLatch l ∧ Memory.read m3.mem 0x1000 ≠ Memory.read (Memory.write m3.mem 0x1000 5) 0x1000 ∧
      ∀ a, l.reads a = true → Memory.read m3.mem a = Memory.read (Memory.write m3.mem 0x1000 5) a := by
  refine ⟨rfl, running_valid rfl m3_gen, by decide +kernel, fun a ha => ?_⟩
  refine (Memory.read_write_other _ _ fun he => ?_).symm
  subst he
  revert ha
  decide +kernel

/-- F-41: the first byte of a data column is not backed by memory. -/
theorem witness_UnmappedAccessIsBusError :
    let s := { busy (.gen 0) .genPQR m3 with platform := m3hole.platform }
    Consistent s ∧ s.seq = .busy ∧ s.latched = some (running (.gen 0) .genPQR m3) ∧
      (∃ g ∈ writeSpans .genPQR m3.mapOf [] ++ mustReadSpans .genPQR m3.mapOf [], g.contains 0x2010 = true) ∧
      mapped s.platform 0x2010 = false := by
  have h := busy_consistent (i := .gen 0) rfl m3_gen
  exact ⟨⟨h.1, h.2, h.3, h.4, h.5, h.6, h.7, h.8, h.9, fileShape_free rfl⟩, rfl, rfl, ⟨m3.mapOf.col 4, by decide +kernel⟩, by decide +kernel⟩

/-- The aligned map, on the scalar backend and on backend 1; both runs end with DONE. -/
theorem witness_BackendChangesNoResult :
    Acceptable (.genpqr 0) .genPQR mv ∧ Acceptable ((Instr.genpqr 0).onBackend 1) .genPQR mv ∧
      exec (.genpqr 0) mv = .next (nextOf (.genpqr 0) mv) ∧ exec (.genpqr 1) mv = .next (nextOf (.genpqr 1) mv) ∧
      exec (.genpqr 0) (nextOf (.genpqr 0) mv) = .next (nextOf (.genpqr 0) (nextOf (.genpqr 0) mv)) ∧
      exec (.genpqr 1) (nextOf (.genpqr 1) mv) = .next (nextOf (.genpqr 1) (nextOf (.genpqr 1) mv)) ∧
      Finished (nextOf (.genpqr 0) (nextOf (.genpqr 0) mv)) ∧ Finished (nextOf (.genpqr 1) (nextOf (.genpqr 1) mv)) :=
  ⟨acceptable_of_checks rfl rfl (by decide +kernel) (by decide +kernel) (by decide +kernel), mv_genpqr_wide,
    exec_nextOf _ _, exec_nextOf _ _, exec_nextOf _ _, exec_nextOf _ _, ⟨by decide +kernel, by decide +kernel⟩,
    by decide +kernel, by decide +kernel⟩

theorem witness_BackendChangesNoOtherFault :
    (Instr.gen 0).isMap = true ∧ m3.seq = .idle ∧ exec (.gen 0) m3 = .next (nextOf (.gen 0) m3) ∧
      exec ((Instr.gen 0).onBackend 1) m3 = .next (nextOf (.gen 1) m3) ∧ (nextOf (.gen 1) m3).fcode = some .unaligned :=
  ⟨rfl, rfl, exec_nextOf _ _, exec_nextOf _ _, by decide +kernel⟩

/-! ### Witnesses: lanes -/

theorem witness_LaneOperations :
    FileShape mv ∧ 0 < numVregs mv.platform ∧ 15 < numVregs mv.platform ∧
      (∀ j, j < vbytes mv.platform → mapped mv.platform (0xFFFFFFFFFFFFFFFC + j) = true) ∧
      (hasWide mv.platform = true → mv.platform.nvreg.toNat ≤ 16) ∧
      (let s := State.resetWith ⟨0, 4, 16, []⟩ (table []) []; FileShape s ∧ hasWide s.platform = false) := by
  exact ⟨fileShape_free rfl, by decide, by decide, by decide +kernel, by decide, fileShape_free (n := 0) rfl,
    by decide⟩

theorem witness_LaneConstantMultiply :
    FileShape mv ∧ (0 : Nat) ≠ 1 ∧ (0 : Nat) ≠ 15 ∧ (1 : Nat) ≠ 15 ∧ 0 < numVregs mv.platform ∧
      1 < numVregs mv.platform ∧ 15 < numVregs mv.platform :=
  ⟨fileShape_free rfl, by decide, by decide, by decide, by decide, by decide, by decide⟩

theorem witness_LaneKernelGeneratesParity :
    FileShape mv ∧ 4 ≤ numVregs mv.platform ∧ ValidJob .genPQR mv.mapOf [] ∧
      AlignedTo (vbytes mv.platform) .genPQR mv.mapOf [] ∧
      AllMapped mv.platform .genPQR mv.mapOf [] ∧ 0 < mv.mapOf.shortLen ∧ mv.mapOf.shortLen < mv.mapOf.commonLen :=
  ⟨fileShape_free rfl, by decide, mv_genpqr_wide.job, mv_genpqr_wide.aligned (by decide),
    allMapped_of_list (by decide +kernel), by decide +kernel, by decide +kernel⟩

/-! ### Witnesses: the host port -/

theorem witness_StepRunsDecodedCommand :
    (let s := m3.withInputs [.write 3 0x1];
      s.seq = .idle ∧ s.held = [] ∧ s.inputs = .write 3 0x1 :: [] ∧ decode 0x1 = .ok (.gen 0)) ∧
    (let s := busy (.gen 0) .genPQR m3;
      s.seq = .busy ∧ s.latched = some (running (.gen 0) .genPQR m3) ∧ s.inputs = []) :=
  ⟨⟨rfl, rfl, rfl, by decide⟩, rfl, rfl, rfl⟩

/-- RW numbers at the ends of their ranges; a step of an engine with a WAIT before it, which writes no register. -/
theorem witness_RegisterStorage :
    step (m3.withInputs [.wait]) = .next (hostRead 2 (m3.withInputs [])) ∧ m3.seq = .idle ∧ (∀ r ∈ [4, 11, 256, 260, 2312, 2316], (Reg.ofNumber r).isRw = true) ∧
      exec (.gen 0) m3 = .next (nextOf (.gen 0) m3) ∧ Reg.ofNumber 5 ≠ Reg.ofNumber 4 :=
  ⟨rfl, rfl, by decide +kernel, exec_nextOf _ _, by decide⟩

theorem witness_ReservedRegisters :
    (14 ≤ 14 ∧ 255 < 256) ∧ (256 ≤ 261 ∧ 5 ≤ (261 - 256) % 8) ∧ (2319 < 2320 ∧ 5 ≤ (2319 - 256) % 8) ∧ 2320 ≤ 2320 := by
  decide

/-- A BUSY engine with each kind of host action before it, and an IDLE engine with a held write. -/
theorem witness_HeldWrites :
    let b := busy (.gen 0) .genPQR m3
    (∀ xs, (b.withInputs xs).seq = .busy ∧ (b.withInputs xs).inputs = xs) ∧ (Reg.ofNumber 7).isRw = true ∧
      (m3.withHeld [(3, 1)]).seq ≠ .busy ∧ (m3.withHeld [(3, 1)]).held = (3, 1) :: [] :=
  ⟨fun _ => ⟨rfl, rfl⟩, by decide, by decide +kernel, rfl⟩

/-- Over a step that reads STATUS the engine stays BUSY. -/
theorem witness_DescriptorFixedWhileBusy :
    let s := (busy (.gen 0) .genPQR m3).withInputs [.read 2]
    s.seq = .busy ∧ s.latched = some (running (.gen 0) .genPQR m3) ∧
      step s = .next (hostRead 2 (s.withInputs [])) ∧ (hostRead 2 (s.withInputs [])).seq = .busy :=
  ⟨rfl, rfl, rfl, rfl⟩

/-- A platform with wide-vector backends and one without. -/
theorem witness_CapConstant :
    hasWide ⟨1, 4, 16, []⟩ = true ∧ hasWide ⟨0, 4, 16, []⟩ = false ∧ step m3 = .next m3 := ⟨by decide, by decide, rfl⟩

theorem witness_ControlRegister :
    (3 : Word).getLsbD 0 = true ∧ ((2 : Word).getLsbD 0 = false ∧ (2 : Word).getLsbD 1 = true) ∧
      ((0xFFFFFFFFFFFFFFFC : Word).getLsbD 0 = false ∧ (0xFFFFFFFFFFFFFFFC : Word).getLsbD 1 = false) := by decide

/-- Soft reset while a command runs: a byte outside its write set. -/
theorem witness_SoftReset :
    ∀ l, (busy (.gen 0) .genPQR m3).latched = some l → l.writes 0x2000 = false := by
  intro l hl
  cases hl
  decide +kernel

/-- A hardware reset while nothing runs; and one while a command runs, with a byte outside its write set. -/
theorem witness_ResetValues :
    (m3.latched = none ∧ m3.mem ≠ []) ∧ ∀ l, (busy (.gen 0) .genPQR m3).latched = some l → l.writes 0x2000 = false := by
  refine ⟨⟨rfl, by decide +kernel⟩, fun l hl => ?_⟩
  cases hl
  decide +kernel

/-- A faulted engine that the host writes to, reads, soft-resets and hardware-resets; RW numbers at the ends of their ranges;
the CTRL values ACK, without bit 0, and SRST, with it. -/
theorem witness_FaultIsSticky :
    let f := nextOf (.gen 2) m3
    Consistent f ∧ (∀ r ∈ [4, 11, 256, 2316], (Reg.ofNumber r).isRw = true) ∧ (2 : Word).getLsbD 0 = false ∧
      (1 : Word).getLsbD 0 = true ∧ (f.withInputs [.read 13]).inputs = .read 13 :: [] ∧
      (∀ a b rest, (f.withInputs [.read 13]).inputs ≠ .store a b :: rest) ∧
      f.seq = .fault ∧ f.held = [] ∧ step (f.withInputs [.write 7 9]) = .next f ∧
      step (f.withInputs [.write 1 1]) = .next f.softReset ∧ step (f.withInputs [.hardReset]) = .next f.hardReset ∧
      step ((f.withInputs []).withHeld [(1, 1)]) = .next f.softReset := by
  have hf : nextOf (.gen 2) m3 = m3.raiseFault (reject .badBackend 2) := by
    have := exec_reject_before (i := .gen 2) (s := m3) (r := reject .badBackend 2) rfl rfl (by decide +kernel)
    simp [nextOf, this]
  rw [hf]
  refine ⟨?_, by decide +kernel, by decide, by decide, rfl, by simp [State.withInputs], rfl, rfl, rfl, rfl, rfl, rfl⟩
  constructor
  case vectorFile => exact fileShape_free rfl
  all_goals simp [State.raiseFault, m3, engine, State.resetWith, kindUsed]

theorem witness_WaitEndsWithDoneOrFault :
    let s := m3.withInputs [.write 3 0x1, .wait]
    Consistent s ∧ s.seq = .idle ∧ s.held = [] ∧ s.inputs = [.write 3 0x1, .wait] :=
  ⟨engine_consistent _ _ _ _ _, rfl, rfl, rfl⟩

theorem witness_AcceptedCommandEnds :
    Consistent (busy (.gen 0) .genPQR m3) ∧ (busy (.gen 0) .genPQR m3).seq = .busy ∧
      (busy (.gen 0) .genPQR m3).inputs = [] := ⟨busy_consistent rfl m3_gen, rfl, rfl⟩

theorem witness_StepKeepsConsistent :
    Consistent (busy (.gen 0) .genPQR m3) ∧
      step (busy (.gen 0) .genPQR m3) = .next (nextOf (.gen 0) (busy (.gen 0) .genPQR m3)) :=
  ⟨busy_consistent rfl m3_gen, exec_nextOf (.gen 0) (busy (.gen 0) .genPQR m3)⟩

theorem witness_StepKeepsMemoryCanonical :
    Memory.wf m3.mem ∧ m3.mem ≠ [] ∧ step m3 = .next m3 :=
  ⟨Memory.wf_writeAll Memory.wf_nil _, by decide +kernel, rfl⟩

/-- A GF command, and a map command on another backend than 0, that are accepted. -/
theorem witness_AcceptanceLatchesRegisters :
    (m3gf 2 8).seq = .idle ∧ exec .gfmul (m3gf 2 8) = .next (nextOf .gfmul (m3gf 2 8)) ∧
      (nextOf .gfmul (m3gf 2 8)).seq = .busy ∧ mv.seq = .idle ∧
      exec (.genpqr 1) mv = .next (nextOf (.genpqr 1) mv) ∧ (nextOf (.genpqr 1) mv).seq = .busy :=
  ⟨rfl, exec_nextOf _ _, by decide +kernel, rfl, exec_nextOf _ _, by decide +kernel⟩

/-! ### What a command latches (rule R62) -/

/-- A GF command latches the map registers and the targets as they stand. -/
theorem test_gf_latches_descriptor :
    (nextOf .gfmul (m3gf 2 8)).latched.map Latch.desc = some (m3gf 2 8).descriptor ∧
      (m3gf 2 8).descriptor.ncols = 6 ∧ (m3gf 2 8).descriptor.nparity = 3 := by decide +kernel

/-- A generation latches all three target registers, though it has no target. -/
theorem test_gen_latches_targets :
    (nextOf (.gen 0) (m3lost [3, 5])).latched.map (fun l => (l.desc.tgt0, l.desc.tgt1, l.desc.tgt2, l.targets)) =
      some (3, 5, 0, []) := by decide +kernel

end Sys2Proof.Tests
end

/-! ## Proofs of the state family: the invariant of the status registers, the registers by number, STATUS and CAP, the tables,
the read set, the lanes -/

section

/-! ### The invariant `Consistent` (rules R16, R35 to R38, R62, R151) -/

namespace Sys2Proof.Machine

/-- `t` and `s` agree in every field that `Consistent` speaks of. -/
structure SameEngine (s t : State) : Prop where
  platform : t.platform = s.platform
  seq : t.seq = s.seq
  done : t.done = s.done
  vctx : t.vctx = s.vctx
  kind : t.kind = s.kind
  used : t.used = s.used
  fcode : t.fcode = s.fcode
  finfo : t.finfo = s.finfo
  gfr : t.gfr = s.gfr
  latched : t.latched = s.latched
  vfile : t.vfile = s.vfile

/-- Consistency depends on those fields only. -/
theorem Consistent.congr {s t : State} (hc : Consistent s) (h : SameEngine s t) : Consistent t where
  latchedIffBusy := by rw [h.seq, h.latched]; exact hc.latchedIffBusy
  doneIdle := by rw [h.done, h.seq]; exact hc.doneIdle
  vctxBusy := by rw [h.vctx, h.latched]; exact hc.vctxBusy
  fcodeFault := by rw [h.seq, h.fcode]; exact hc.fcodeFault
  finfoFault := by rw [h.seq, h.finfo]; exact hc.finfoFault
  usedKind := by rw [h.used, h.kind]; exact hc.usedKind
  gfrByte := by rw [h.gfr]; exact hc.gfrByte
  kindLatched := by rw [h.latched, h.kind]; exact hc.kindLatched
  latchValid := by rw [h.latched]; exact hc.latchValid
  vectorFile := fileShape_congr h.platform h.vfile hc.vectorFile

theorem sameEngine_withInputs (s : State) (xs : List HostAction) : SameEngine s (s.withInputs xs) := by
  constructor <;> rfl

theorem sameEngine_withHeld (s : State) (h : List (Nat × Word)) : SameEngine s (s.withHeld h) := by
  constructor <;> rfl

theorem sameEngine_hold (s : State) (r : Nat) (v : Word) : SameEngine s (s.hold r v) := by
  constructor <;> rfl

theorem sameEngine_hostRead (r : Nat) (s : State) : SameEngine s (hostRead r s) := by
  constructor <;> rfl

theorem sameEngine_writeReg (s : State) (reg : Reg) (v : Word) : SameEngine s (s.writeReg reg v) := by
  cases reg <;> constructor <;> rfl

theorem sameEngine_loadByte (s : State) (a : Nat) : SameEngine s (s.loadByte a) := by
  unfold State.loadByte
  split <;> constructor <;> rfl

/-! #### States in which nothing runs -/

/-- Nothing is latched outside BUSY. -/
theorem Consistent.latched_none {s : State} (hc : Consistent s) (hs : s.seq ≠ .busy) : s.latched = none := by
  simpa using mt hc.latchedIffBusy.mpr hs

/-- There is no fault code outside FAULT. -/
theorem Consistent.fcode_none {s : State} (hc : Consistent s) (hs : s.seq ≠ .fault) : s.fcode = none := by
  simpa using mt hc.fcodeFault.mpr hs

/-- DONE is 0 outside IDLE. -/
theorem Consistent.done_false {s : State} (hc : Consistent s) (hs : s.seq ≠ .idle) : s.done = false := by
  simpa using mt hc.doneIdle hs

/-- An IDLE engine without a latch, a fault record or VCTX is consistent. -/
theorem consistent_of_idle {s : State} (hs : s.seq = .idle) (hv : s.vctx = false) (hf : s.fcode = none)
    (hi : s.finfo = 0) (hu : s.used = kindUsed s.kind) (hg : s.gfr.toNat < 256) (hl : s.latched = none)
    (hfile : FileShape s) : Consistent s where
  latchedIffBusy := by simp [hs, hl]
  doneIdle := fun _ => hs
  vctxBusy := by simp [hv, hl]
  fcodeFault := by simp [hs, hf]
  finfoFault := fun _ => hi
  usedKind := hu
  gfrByte := hg
  kindLatched := by simp [hl]
  latchValid := by simp [hl]
  vectorFile := hfile

/-- A FAULT without a latch, DONE or VCTX is consistent. -/
theorem consistent_of_fault {s : State} (hs : s.seq = .fault) (hd : s.done = false) (hv : s.vctx = false)
    (hf : s.fcode.isSome = true) (hu : s.used = kindUsed s.kind) (hg : s.gfr.toNat < 256) (hl : s.latched = none)
    (hfile : FileShape s) : Consistent s where
  latchedIffBusy := by simp [hs, hl]
  doneIdle := by simp [hd]
  vctxBusy := by simp [hv, hl]
  fcodeFault := by simp [hs, hf]
  finfoFault := fun h => absurd hs h
  usedKind := hu
  gfrByte := hg
  kindLatched := by simp [hl]
  latchValid := by simp [hl]
  vectorFile := hfile

theorem consistent_resetWith (p : Platform) (table : ColumnTable) (mem : Memory) :
    Consistent (State.resetWith p table mem) :=
  consistent_of_idle rfl rfl rfl rfl rfl (by simp [State.resetWith]) rfl (fileShape_free rfl)

theorem consistent_softReset (s : State) : Consistent s.softReset :=
  consistent_of_idle rfl rfl rfl rfl rfl (by simp) rfl (fileShape_free rfl)

theorem consistent_hardReset (s : State) : Consistent s.hardReset :=
  consistent_of_idle rfl rfl rfl rfl rfl (by simp) rfl (fileShape_free rfl)

/-! #### The engine's own updates -/

/-- VCTX is 0 outside BUSY (rule R151). -/
theorem Consistent.vctx_false {s : State} (hc : Consistent s) (hs : s.seq ≠ .busy) : s.vctx = false := by
  have := hc.vctxBusy
  simpa [hc.latched_none hs] using this

theorem Consistent.raiseFault {s : State} (hc : Consistent s) (hs : s.seq ≠ .busy) (r : Reject) :
    Consistent (s.raiseFault r) :=
  consistent_of_fault rfl rfl (hc.vctx_false hs) rfl rfl hc.gfrByte (hc.latched_none hs)
    ⟨hc.vectorFile.count, hc.vectorFile.width⟩

theorem Consistent.accept {s : State} (hc : Consistent s) (hs : s.seq = .idle) {l : Latch} (hl : ValidLatch l) :
    Consistent (s.accept l) where
  latchedIffBusy := by simp
  doneIdle := by simp
  vctxBusy := by simp
  fcodeFault := by simp [hc.fcode_none (by simp [hs])]
  finfoFault := fun _ => hc.finfoFault (by simp [hs])
  usedKind := rfl
  gfrByte := hc.gfrByte
  kindLatched := by simp
  latchValid := by simpa using hl
  vectorFile := ⟨hc.vectorFile.count, hc.vectorFile.width⟩

theorem Consistent.finish {s : State} (hc : Consistent s) (hs : s.seq ≠ .fault) {g : Word} (hg : g.toNat < 256)
    (m : Memory) : Consistent (s.finish g m) :=
  consistent_of_idle rfl rfl (hc.fcode_none hs) (hc.finfoFault hs) hc.usedKind hg rfl (fileShape_free rfl)

theorem Consistent.busError {s : State} (hc : Consistent s) (hs : s.seq = .busy) (a : Nat) :
    Consistent (s.busError a) :=
  consistent_of_fault rfl (hc.done_false (by simp [hs])) rfl rfl hc.usedKind hc.gfrByte rfl (fileShape_free rfl)

theorem Consistent.ack {s : State} (hc : Consistent s) : Consistent s.ack where
  latchedIffBusy := hc.latchedIffBusy
  doneIdle := by simp
  vctxBusy := hc.vctxBusy
  fcodeFault := hc.fcodeFault
  finfoFault := hc.finfoFault
  usedKind := hc.usedKind
  gfrByte := hc.gfrByte
  kindLatched := hc.kindLatched
  latchValid := hc.latchValid
  vectorFile := ⟨hc.vectorFile.count, hc.vectorFile.width⟩

theorem Consistent.writeCtrl {s : State} (hc : Consistent s) (v : Word) : Consistent (s.writeCtrl v) := by
  unfold State.writeCtrl
  split
  · exact consistent_softReset s
  · split
    · exact hc.ack
    · exact hc

/-- The mark of a race is no part of what makes a latch valid. -/
theorem ValidLatch.withRaced {l : Latch} (h : ValidLatch l) (b : Bool) : ValidLatch { l with raced := b } :=
  ⟨h.backend, h.gf, h.map⟩

theorem Consistent.storeByte {s : State} (hc : Consistent s) (a : Nat) (b : Byte) : Consistent (s.storeByte a b) where
  latchedIffBusy := by simpa using hc.latchedIffBusy
  doneIdle := hc.doneIdle
  vctxBusy := by simpa using hc.vctxBusy
  fcodeFault := hc.fcodeFault
  finfoFault := hc.finfoFault
  usedKind := hc.usedKind
  gfrByte := hc.gfrByte
  kindLatched := by simpa using hc.kindLatched
  latchValid := by
    intro l hl
    obtain ⟨l', hl', rfl⟩ := Option.map_eq_some_iff.mp hl
    exact (hc.latchValid l' hl').withRaced _
  vectorFile := ⟨hc.vectorFile.count, hc.vectorFile.width⟩

/-! #### Commands -/

/-- What a map command latches passed its checks (rule R62). -/
theorem validLatch_of_checks {i : Instr} (hm : i.isMap = true) {s : State} {k : Kind}
    (hb : checksBeforeKind i.backend s = none) (hk : selectOf i s = .ok k) (ha : checksAfterKind i.backend s k = none) :
    ValidLatch (s.latch i i.backend k) := by
  obtain ⟨-, hv⟩ := (checksBeforeKind_none _ _).mp hb
  obtain ⟨hkind, hpar, hgen, hrec⟩ := (selectOf_ok i hm s hv k).mp hk
  obtain ⟨hover, -⟩ := (checksAfterKind_none _ _ _).mp ha
  exact ⟨rfl, fun h => by simp [hm] at h, fun _ => ⟨hkind, hv, hpar, hgen, hrec, hover⟩⟩

/-- The kind of a GF command (rule R61); used of no other command. -/
def gfKind : Instr → Kind
  | .gfexp2 => .gfExp2
  | _ => .gfMul

/-- What a GF command latches has byte operands (rules R80, R84). -/
theorem validLatch_of_operands {i : Instr} (hm : i.isMap = false) {s : State} (ha : s.gfa.toNat < 256)
    (hb : s.gfb.toNat < 256) : ValidLatch (s.latch i 0 (gfKind i)) := by
  refine ⟨?_, fun _ => ⟨ha, hb, ?_⟩, fun h => by simp [hm] at h⟩
  all_goals cases i <;> simp_all [Instr.isMap, Instr.backend, gfKind]

/-- In IDLE a GF command is issued with its kind. -/
theorem exec_idle_gf (i : Instr) (hm : i.isMap = false) {s : State} (h : s.seq = .idle) :
    exec i s = .next (issueGf i (gfKind i) s) := by
  cases i
  case gfexp2 => exact gfCommand_idle h
  case gfmul => exact gfCommand_idle h
  all_goals simp [Instr.isMap] at hm

/-- In BUSY a GF command ends with the byte of some operation on bytes, zero-extended. -/
theorem exec_busy_gf (i : Instr) (hm : i.isMap = false) {s : State} (h : s.seq = .busy) :
    ∃ op : Byte → Byte → Byte, exec i s = .next (endGf op s) := by
  cases i
  case gfexp2 => exact ⟨_, gfCommand_busy h⟩
  case gfmul => exact ⟨_, gfCommand_busy h⟩
  all_goals simp [Instr.isMap] at hm

/-- In IDLE a command is rejected with one fault or accepted with a valid latch. -/
theorem exec_idle_validLatch (i : Instr) {s t : State} (h : s.seq = .idle) (he : exec i s = .next t) :
    (∃ r, t = s.raiseFault r) ∨ ∃ l, ValidLatch l ∧ t = s.accept l := by
  cases hm : i.isMap with
  | true =>
    rw [exec_idle_map i hm s h, Host.Outcome.next.injEq] at he
    subst he
    rcases issueMap_cases i i.backend (selectOf i) s with ⟨r, hr⟩ | ⟨k, hb, hk, ha, ht⟩
    · exact .inl ⟨r, hr⟩
    · exact .inr ⟨_, validLatch_of_checks hm hb hk ha, ht⟩
  | false =>
    rw [exec_idle_gf i hm h, Host.Outcome.next.injEq] at he
    subst he
    rcases issueGf_cases i (gfKind i) s with ⟨r, -, hr⟩ | ⟨ha, hb, ht⟩
    · exact .inl ⟨r, hr⟩
    · exact .inr ⟨_, validLatch_of_operands hm ha hb, ht⟩

/-- In BUSY a command leaves GFR as it is or puts a byte in it (rules R35, R66). -/
theorem exec_busy_gfr (i : Instr) {s t : State} (h : s.seq = .busy) (he : exec i s = .next t) :
    t.gfr = s.gfr ∨ t.gfr.toNat < 256 := by
  cases hm : i.isMap with
  | true =>
    rw [exec_busy_map i hm s h, Host.Outcome.next.injEq] at he
    subst he
    left
    cases hl : s.latched with
    | none => rw [endPass_none _ hl]
    | some l => rcases endPass_cases (cellsOf i) hl with ⟨_, _, ht⟩ | ⟨_, _, ht⟩ | ⟨_, _, ht⟩ <;> rw [ht] <;> rfl
  | false =>
    obtain ⟨op, hop⟩ := exec_busy_gf i hm h
    rw [hop, Host.Outcome.next.injEq] at he
    subst he
    cases hl : s.latched with
    | none => left; rw [endGf_none _ hl]
    | some l =>
      right
      rw [endGf_some _ hl, State.finish_gfr, BitVec.toNat_setWidth_of_le (by decide)]
      exact BitVec.isLt _

/-- Every command keeps a state consistent, in every sequencing state. -/
theorem Consistent.of_exec {i : Instr} {s t : State} (hc : Consistent s) (he : exec i s = .next t) : Consistent t := by
  cases hs : s.seq with
  | idle =>
    rcases exec_idle_validLatch i hs he with ⟨r, rfl⟩ | ⟨l, hl, rfl⟩
    · exact hc.raiseFault (by simp [hs]) r
    · exact hc.accept hs hl
  | busy =>
    have hg : t.gfr.toNat < 256 := (exec_busy_gfr i hs he).elim (fun h => h ▸ hc.gfrByte) id
    rcases exec_busy_cases i hs he with ⟨-, rfl⟩ | ⟨a, rfl⟩ | ⟨g, m, rfl⟩
    · exact hc
    · exact hc.busError hs a
    · exact hc.finish (by simp [hs]) hg m
  | fault =>
    rw [exec_fault i hs, Host.Outcome.next.injEq] at he
    exact he ▸ hc

/-! #### The host and the step -/

theorem Consistent.of_issueWord {v : Word} {s t : State} (hc : Consistent s) (hs : s.seq = .idle)
    (he : issueWord v s = .next t) : Consistent t := by
  unfold issueWord at he
  split at he
  · exact hc.of_exec he
  · cases he
    exact hc.raiseFault (by simp [hs]) _

theorem Consistent.of_hostWrite {r : Nat} {v : Word} {s t : State} (hc : Consistent s) (he : hostWrite r v s = .next t) :
    Consistent t := by
  rcases hostWrite_cases r v s with h | ⟨hs, h⟩ | ⟨-, h⟩ | ⟨-, reg, -, h⟩ | h <;> rw [h] at he
  · cases he
    exact hc.writeCtrl v
  · exact hc.of_issueWord hs he
  · cases he
    exact hc.congr (sameEngine_hold s r v)
  · cases he
    exact hc.congr (sameEngine_writeReg s reg v)
  · cases he
    exact hc

/-- A store goes through exactly on a mapped byte. -/
theorem hostStore_next {a : Word} {b : Byte} {s t : State} (he : hostStore a b s = .next t) :
    t = s.storeByte a.toNat b := by
  unfold hostStore at he
  split at he
  · exact (Host.Outcome.next.inj he).symm
  · cases he

/-- So does a load. -/
theorem hostLoad_next {a : Word} {s t : State} (he : hostLoad a s = .next t) : t = s.loadByte a.toNat := by
  unfold hostLoad at he
  split at he
  · exact (Host.Outcome.next.inj he).symm
  · cases he

theorem Consistent.of_hostStep {x : HostAction} {s t : State} (hc : Consistent s) (he : hostStep x s = .next t) :
    Consistent t := by
  cases x with
  | write r v => exact hc.of_hostWrite he
  | read r =>
    cases he
    exact hc.congr (sameEngine_hostRead r s)
  | store a b => exact hostStore_next he ▸ hc.storeByte _ _
  | load a => exact hostLoad_next he ▸ hc.congr (sameEngine_loadByte s _)
  | wait =>
    cases he
    exact hc.congr (sameEngine_hostRead 2 s)
  | hardReset =>
    cases he
    exact consistent_hardReset s

/-- The engine's move is the latched command's, or none. -/
theorem engineStep_cases (s : State) :
    (∃ l, s.seq = .busy ∧ s.latched = some l ∧ engineStep s = exec l.instr s) ∨ engineStep s = .next s := by
  unfold engineStep
  split
  · next l hs hl => exact .inl ⟨l, hs, hl, rfl⟩
  · exact .inr rfl

theorem Consistent.of_engineStep {s t : State} (hc : Consistent s) (he : engineStep s = .next t) : Consistent t := by
  rcases engineStep_cases s with ⟨l, -, -, h⟩ | h <;> rw [h] at he
  · exact hc.of_exec he
  · cases he
    exact hc

/-- Settles O56: each of the four things a step can be keeps the invariant. -/
theorem stepKeepsConsistent : Obligations.StepKeepsConsistent := by
  intro s t hc he
  rcases step_cases s with ⟨-, h⟩ | ⟨-, r, v, more, -, h⟩ | ⟨x, rest, -, -, h⟩ | ⟨-, -, -, h⟩ <;> rw [h] at he
  · exact hc.of_engineStep he
  · exact (hc.congr (sameEngine_withHeld s more)).of_hostWrite he
  · exact (hc.congr (sameEngine_withInputs s rest)).of_hostStep he
  · cases he
    exact hc

/-- Settles O57: the reset state is IDLE with nothing latched and no fault record. -/
theorem resetIsConsistent : Obligations.ResetIsConsistent :=
  consistent_resetWith _ _ _

end Sys2Proof.Machine

end
section

/-! ### Registers by number (rules R12 to R14) -/

namespace Sys2Proof.Machine

/-- The numbers from 14 on are the column table's, with gaps (rules R12, R14, R19). -/
theorem Reg.ofNumber_of_ge {r : Nat} (h : 14 ≤ r) :
    Reg.ofNumber r = if 256 ≤ r ∧ r < 2320 then columnReg ((r - 256) / 8) ((r - 256) % 8) else .reserved := by
  unfold Reg.ofNumber
  split
  case h_15 => rfl
  all_goals omega

theorem columnReg_of_ge (c : Nat) {f : Nat} (h : 5 ≤ f) : columnReg c f = .reserved := by
  unfold columnReg
  split
  case h_6 => rfl
  all_goals omega

/-- Fields 0 to 4 of an entry are storage and have the number that rule R12 gives. -/
theorem columnReg_of_lt (c : Nat) {f : Nat} (h : f < 5) :
    ∃ g, columnReg c f = .col c g ∧ Reg.number (.col c g) = 256 + 8 * c + f := by
  match f, h with
  | 0, _ => exact ⟨.dev, rfl, rfl⟩
  | 1, _ => exact ⟨.off, rfl, rfl⟩
  | 2, _ => exact ⟨.len, rfl, rfl⟩
  | 3, _ => exact ⟨.ptr, rfl, rfl⟩
  | 4, _ => exact ⟨.flags, rfl, rfl⟩

/-- The numbers that rule R14 reserves. -/
def IsReservedNumber (r : Nat) : Prop :=
  (14 ≤ r ∧ r < 256) ∨ (256 ≤ r ∧ r < 2320 ∧ 5 ≤ (r - 256) % 8) ∨ 2320 ≤ r

/-- The numbers of the columns' fields (rules R12, R19). -/
def IsColumnNumber (r : Nat) : Prop := 256 ≤ r ∧ r < 2320 ∧ (r - 256) % 8 < 5

/-- A number is one of the first fourteen, a column's or reserved. -/
theorem number_cases (r : Nat) : r < 14 ∨ IsColumnNumber r ∨ IsReservedNumber r := by
  unfold IsColumnNumber IsReservedNumber
  omega

theorem Reg.ofNumber_reserved {r : Nat} (h : IsReservedNumber r) : Reg.ofNumber r = .reserved := by
  rw [Reg.ofNumber_of_ge (by unfold IsReservedNumber at h; omega)]
  split
  · exact columnReg_of_ge _ (by unfold IsReservedNumber at h; omega)
  · rfl

/-- A column's number names a field of an entry of the table, and that register has this number. -/
theorem Reg.ofNumber_column {r : Nat} (h : IsColumnNumber r) :
    ∃ c g, c < 258 ∧ Reg.ofNumber r = .col c g ∧ Reg.number (.col c g) = r := by
  obtain ⟨hlo, hhi, hf⟩ := h
  obtain ⟨g, hg, hn⟩ := columnReg_of_lt ((r - 256) / 8) hf
  refine ⟨(r - 256) / 8, g, by omega, ?_, by omega⟩
  rw [Reg.ofNumber_of_ge (by omega), if_pos ⟨hlo, hhi⟩, hg]

/-- Which numbers are RW (rule R12). -/
theorem Reg.isRw_ofNumber (r : Nat) :
    (Reg.ofNumber r).isRw = true ↔ (4 ≤ r ∧ r ≤ 11) ∨ IsColumnNumber r := by
  rcases number_cases r with h | h | h
  · have hc : ¬IsColumnNumber r := by unfold IsColumnNumber; omega
    simp only [hc, or_false]
    interval_cases r <;> decide
  · obtain ⟨c, g, -, hr, -⟩ := Reg.ofNumber_column h
    simp [hr, Reg.isRw, h]
  · have hc : ¬((4 ≤ r ∧ r ≤ 11) ∨ IsColumnNumber r) := by
      unfold IsReservedNumber at h; unfold IsColumnNumber; omega
    simp [Reg.ofNumber_reserved h, Reg.isRw, hc]

/-- An RW register has one number. -/
theorem Reg.number_ofNumber {r : Nat} (h : (Reg.ofNumber r).isRw = true) : (Reg.ofNumber r).number = r := by
  rcases (Reg.isRw_ofNumber r).mp h with hr | hr
  · obtain ⟨hlo, hhi⟩ := hr
    interval_cases r <;> rfl
  · obtain ⟨c, g, -, hg, hn⟩ := Reg.ofNumber_column hr
    rw [hg, hn]

/-- A column that a number names is in the table. -/
theorem Reg.column_lt_of_ofNumber {r c : Nat} {f : ColField} (h : Reg.ofNumber r = .col c f) : c < 258 := by
  rcases number_cases r with hr | hr | hr
  · interval_cases r <;> cases h
  · obtain ⟨c', g, hc, hg, -⟩ := Reg.ofNumber_column hr
    cases hg.symm.trans h
    exact hc
  · cases (Reg.ofNumber_reserved hr).symm.trans h

/-! ### Storage -/

theorem Column.get_put_same (x : Column) (f : ColField) (v : Word) : (x.put f v).get f = v := by
  cases f <;> rfl

theorem Column.get_put_other (x : Column) {f g : ColField} (h : g ≠ f) (v : Word) : (x.put f v).get g = x.get g := by
  cases f <;> cases g <;> simp_all [Column.get, Column.put]

theorem columnAt_set_same (t : ColumnTable) {c : Nat} (h : c < 258) (x : Column) :
    columnAt (t.setIfInBounds c x) c = x := by
  simp [columnAt, h]

theorem columnAt_set_other (t : ColumnTable) {c d : Nat} (h : d ≠ c) (x : Column) :
    columnAt (t.setIfInBounds c x) d = columnAt t d := by
  simp [columnAt, h.symm]

@[simp] theorem State.writeReg_mem (s : State) (reg : Reg) (v : Word) : (s.writeReg reg v).mem = s.mem := by
  cases reg <;> rfl

@[simp] theorem State.writeReg_statusWord (s : State) (reg : Reg) (v : Word) :
    (s.writeReg reg v).statusWord = s.statusWord := by
  cases reg <;> rfl

/-- An RW register that a number names gives back what was written (rule R12). -/
theorem State.readReg_writeReg_same (s : State) {r : Nat} (h : (Reg.ofNumber r).isRw = true) (v : Word) :
    (s.writeReg (Reg.ofNumber r) v).readReg (Reg.ofNumber r) = v := by
  cases hr : Reg.ofNumber r with
  | col c f =>
    simp [State.readReg, State.writeReg, State.column, columnAt_set_same _ (Reg.column_lt_of_ofNumber hr),
      Column.get_put_same]
  | cap | ctrl | status | cmd | gfr | finfo | reserved => simp [hr, Reg.isRw] at h
  | _ => rfl

/-- Writing a field of a column changes no other field. -/
theorem State.readReg_writeReg_col (s : State) {c d : Nat} {f g : ColField} (h : Reg.col d g ≠ .col c f) (v : Word) :
    (s.writeReg (.col c f) v).readReg (.col d g) = s.readReg (.col d g) := by
  by_cases hd : d = c
  · subst hd
    have hg : g ≠ f := fun hg => h (hg ▸ rfl)
    by_cases hc : d < 258
    · simp [State.readReg, State.writeReg, State.column, columnAt_set_same _ hc,
        Column.get_put_other _ hg]
    · simp [State.readReg, State.writeReg, State.column, columnAt, hc]
  · simp [State.readReg, State.writeReg, State.column, columnAt_set_other _ hd]

/-- A write to one register changes no other. -/
theorem State.readReg_writeReg_other (s : State) {reg q : Reg} (h : q ≠ reg) (v : Word) :
    (s.writeReg reg v).readReg q = s.readReg q := by
  cases q with
  | status => exact s.writeReg_statusWord reg v
  | col d g =>
    cases reg with
    | col c f => exact s.readReg_writeReg_col h v
    | _ => rfl
  | _ => cases reg <;> simp_all [State.readReg, State.writeReg]

/-- A host read looks at neither the host's queue nor what it read before. -/
theorem State.readReg_withInputs (s : State) (xs : List HostAction) (q : Reg) :
    (s.withInputs xs).readReg q = s.readReg q := by
  cases q <;> rfl

/-! ### What a host write does, by the register it goes to -/

theorem hostWrite_ctrl {r : Nat} (h : Reg.ofNumber r = .ctrl) (v : Word) (s : State) :
    hostWrite r v s = .next (s.writeCtrl v) := by
  simp [hostWrite, h]

theorem hostWrite_cmd_idle {r : Nat} (h : Reg.ofNumber r = .cmd) (v : Word) {s : State} (hs : s.seq = .idle) :
    hostWrite r v s = issueWord v s := by
  simp [hostWrite, h, hs]

/-- A write that is held: to CMD or an RW register, in BUSY (rule R13). -/
theorem hostWrite_busy {r : Nat} (h : Reg.ofNumber r = .cmd ∨ (Reg.ofNumber r).isRw = true) (v : Word) {s : State}
    (hs : s.seq = .busy) : hostWrite r v s = .next (s.hold r v) := by
  cases hr : Reg.ofNumber r <;> simp_all [hostWrite, Reg.isRw]

/-- A write that is ignored: to CMD or an RW register, in FAULT (rule R190). -/
theorem hostWrite_fault {r : Nat} (h : Reg.ofNumber r = .cmd ∨ (Reg.ofNumber r).isRw = true) (v : Word) {s : State}
    (hs : s.seq = .fault) : hostWrite r v s = .next s := by
  cases hr : Reg.ofNumber r <;> simp_all [hostWrite, Reg.isRw]

/-- A write that is stored: to an RW register, in IDLE (rule R12). -/
theorem hostWrite_rw_idle {r : Nat} (h : (Reg.ofNumber r).isRw = true) (v : Word) {s : State} (hs : s.seq = .idle) :
    hostWrite r v s = .next (s.writeReg (Reg.ofNumber r) v) := by
  cases hr : Reg.ofNumber r <;> simp_all [hostWrite, Reg.isRw]

/-- All other registers ignore a write (rules R12, R14). -/
theorem hostWrite_ignored {r : Nat} (h1 : Reg.ofNumber r ≠ .ctrl) (h2 : Reg.ofNumber r ≠ .cmd)
    (h3 : (Reg.ofNumber r).isRw = false) (v : Word) (s : State) : hostWrite r v s = .next s := by
  cases hr : Reg.ofNumber r <;> simp_all [hostWrite, Reg.isRw]

/-! ### What leaves the descriptor as it is -/

theorem SameDescriptor.refl (s : State) : SameDescriptor s s := by constructor <;> rfl

theorem SameDescriptor.trans {s t u : State} (h : SameDescriptor s t) (h' : SameDescriptor t u) : SameDescriptor s u where
  platform := h'.platform.trans h.platform
  ncols := h'.ncols.trans h.ncols
  nparity := h'.nparity.trans h.nparity
  colshift := h'.colshift.trans h.colshift
  tgt0 := h'.tgt0.trans h.tgt0
  tgt1 := h'.tgt1.trans h.tgt1
  tgt2 := h'.tgt2.trans h.tgt2
  gfa := h'.gfa.trans h.gfa
  gfb := h'.gfb.trans h.gfb
  cols := h'.cols.trans h.cols

theorem sameDescriptor_withInputs (s : State) (xs : List HostAction) : SameDescriptor s (s.withInputs xs) := by
  constructor <;> rfl

theorem sameDescriptor_withHeld (s : State) (h : List (Nat × Word)) : SameDescriptor s (s.withHeld h) := by
  constructor <;> rfl

theorem sameDescriptor_hold (s : State) (r : Nat) (v : Word) : SameDescriptor s (s.hold r v) := by
  constructor <;> rfl

theorem sameDescriptor_hostRead (r : Nat) (s : State) : SameDescriptor s (hostRead r s) := by
  constructor <;> rfl

theorem sameDescriptor_raiseFault (s : State) (r : Reject) : SameDescriptor s (s.raiseFault r) := by
  constructor <;> rfl

theorem sameDescriptor_accept (s : State) (l : Latch) : SameDescriptor s (s.accept l) := by
  constructor <;> rfl

theorem sameDescriptor_finish (s : State) (g : Word) (m : Memory) : SameDescriptor s (s.finish g m) := by
  constructor <;> rfl

theorem sameDescriptor_busError (s : State) (a : Nat) : SameDescriptor s (s.busError a) := by
  constructor <;> rfl

theorem sameDescriptor_storeByte (s : State) (a : Nat) (b : Byte) : SameDescriptor s (s.storeByte a b) := by
  constructor <;> rfl

theorem sameDescriptor_loadByte (s : State) (a : Nat) : SameDescriptor s (s.loadByte a) := by
  unfold State.loadByte
  split <;> constructor <;> rfl

theorem sameDescriptor_writeCtrl (s : State) (v : Word) : SameDescriptor s (s.writeCtrl v) := by
  unfold State.writeCtrl
  split
  · constructor <;> rfl
  · split <;> constructor <;> rfl

/-- No command writes a register that the host can write, nor changes the platform (rule R12). -/
theorem exec_sameDescriptor {i : Instr} {s t : State} (he : exec i s = .next t) : SameDescriptor s t := by
  cases hs : s.seq with
  | idle =>
    rcases exec_idle_cases i hs he with ⟨r, rfl⟩ | ⟨bk, k, rfl⟩
    · exact sameDescriptor_raiseFault s r
    · exact sameDescriptor_accept s _
  | busy =>
    rcases exec_busy_cases i hs he with ⟨-, rfl⟩ | ⟨a, rfl⟩ | ⟨g, m, rfl⟩
    · exact .refl _
    · exact sameDescriptor_busError s a
    · exact sameDescriptor_finish s g m
  | fault =>
    rw [exec_fault i hs, Host.Outcome.next.injEq] at he
    exact he ▸ .refl s

theorem engineStep_sameDescriptor {s t : State} (he : engineStep s = .next t) : SameDescriptor s t := by
  rcases engineStep_cases s with ⟨l, -, -, h⟩ | h <;> rw [h] at he
  · exact exec_sameDescriptor he
  · cases he
    exact .refl s

theorem issueWord_sameDescriptor {v : Word} {s t : State} (he : issueWord v s = .next t) : SameDescriptor s t := by
  unfold issueWord at he
  split at he
  · exact exec_sameDescriptor he
  · cases he
    exact sameDescriptor_raiseFault s _

/-- A host write changes no RW register unless it stores in one: to an RW register, in IDLE. -/
theorem hostWrite_sameDescriptor {r : Nat} {v : Word} {s t : State} (he : hostWrite r v s = .next t) :
    SameDescriptor s t ∨ (s.seq = .idle ∧ (Reg.ofNumber r).isRw = true ∧ t = s.writeReg (Reg.ofNumber r) v) := by
  by_cases hctrl : Reg.ofNumber r = .ctrl
  · cases (hostWrite_ctrl hctrl v s).symm.trans he
    exact .inl (sameDescriptor_writeCtrl s v)
  by_cases hreg : Reg.ofNumber r = .cmd ∨ (Reg.ofNumber r).isRw = true
  · cases hs : s.seq with
    | idle =>
      rcases hreg with hcmd | hrw
      · exact .inl (issueWord_sameDescriptor ((hostWrite_cmd_idle hcmd v hs).symm.trans he))
      · cases (hostWrite_rw_idle hrw v hs).symm.trans he
        exact .inr ⟨rfl, hrw, rfl⟩
    | busy =>
      cases (hostWrite_busy hreg v hs).symm.trans he
      exact .inl (sameDescriptor_hold s r v)
    | fault =>
      cases (hostWrite_fault hreg v hs).symm.trans he
      exact .inl (.refl s)
  · obtain ⟨hcmd, hrw⟩ := not_or.mp hreg
    cases (hostWrite_ignored hctrl hcmd (Bool.eq_false_iff.mpr hrw) v s).symm.trans he
    exact .inl (.refl s)

/-- Of the host's actions only a write and a hardware reset can change an RW register. -/
theorem hostStep_sameDescriptor {x : HostAction} {s t : State} (he : hostStep x s = .next t) :
    SameDescriptor s t ∨ (∃ r v, x = .write r v ∧ s.seq = .idle ∧ (Reg.ofNumber r).isRw = true ∧
      t = s.writeReg (Reg.ofNumber r) v) ∨ (x = .hardReset ∧ t = s.hardReset) := by
  cases x with
  | write r v => exact (hostWrite_sameDescriptor he).imp_right fun h => .inl ⟨r, v, rfl, h⟩
  | read r =>
    cases he
    exact .inl (sameDescriptor_hostRead r s)
  | store a b => exact .inl (hostStore_next he ▸ sameDescriptor_storeByte s _ _)
  | load a => exact .inl (hostLoad_next he ▸ sameDescriptor_loadByte s _)
  | wait =>
    cases he
    exact .inl (sameDescriptor_hostRead 2 s)
  | hardReset =>
    cases he
    exact .inr (.inr ⟨rfl, rfl⟩)

/-- The RW registers are the descriptor's. -/
theorem readReg_congr {s t : State} (h : SameDescriptor s t) {q : Reg} (hq : q.isRw = true) :
    t.readReg q = s.readReg q := by
  cases q with
  | ncols => exact h.ncols
  | nparity => exact h.nparity
  | colshift => exact h.colshift
  | tgt0 => exact h.tgt0
  | tgt1 => exact h.tgt1
  | tgt2 => exact h.tgt2
  | gfa => exact h.gfa
  | gfb => exact h.gfb
  | col c f => simp [State.readReg, State.column, h.cols]
  | cap | ctrl | status | cmd | gfr | finfo | reserved => cases hq

/-- A register that a write does not name is an RW register of another number: it keeps its value. -/
theorem readReg_writeReg_ne (s : State) {r q : Nat} (hq : (Reg.ofNumber q).isRw = true)
    (hr : (Reg.ofNumber r).isRw = true) (hne : q ≠ r) (v : Word) :
    (s.writeReg (Reg.ofNumber r) v).readReg (Reg.ofNumber q) = s.readReg (Reg.ofNumber q) := by
  refine s.readReg_writeReg_other (fun h => hne ?_) v
  rw [← Reg.number_ofNumber hq, h, Reg.number_ofNumber hr]

/-- What can change an RW register in a step (rule R12): the host's write to it in IDLE, a held one included, or a hardware
reset. -/
theorem step_changes_rw {s t : State} {q : Nat} (hq : (Reg.ofNumber q).isRw = true) (he : step s = .next t) :
    t.readReg (Reg.ofNumber q) = s.readReg (Reg.ofNumber q) ∨
    (s.seq = .idle ∧ ∃ v more, s.held = (q, v) :: more) ∨
    (s.seq = .idle ∧ s.held = [] ∧ ∃ v rest, s.inputs = .write q v :: rest) ∨
    ((s.seq = .busy ∨ s.held = []) ∧ ∃ rest, s.inputs = .hardReset :: rest) := by
  rcases step_cases s with ⟨-, h⟩ | ⟨-, r, v, more, hh, h⟩ | ⟨x, rest, hi, hb, h⟩ | ⟨-, -, -, h⟩ <;> rw [h] at he
  · exact .inl (readReg_congr (engineStep_sameDescriptor he) hq)
  · have hd := sameDescriptor_withHeld s more
    rcases hostWrite_sameDescriptor he with hw | ⟨hs, hr, rfl⟩
    · exact .inl (readReg_congr (hd.trans hw) hq)
    · by_cases hqr : q = r
      · exact .inr (.inl ⟨hs, v, more, hqr ▸ hh⟩)
      · exact .inl ((readReg_writeReg_ne _ hq hr hqr v).trans (readReg_congr hd hq))
  · have hd := sameDescriptor_withInputs s rest
    rcases hostStep_sameDescriptor he with hw | ⟨r, v, rfl, hs, hr, rfl⟩ | ⟨rfl, -⟩
    · exact .inl (readReg_congr (hd.trans hw) hq)
    · by_cases hqr : q = r
      · have hidle : s.seq = .idle := hs
        exact .inr (.inr (.inl ⟨hs, hb.resolve_left (by simp [hidle]), v, rest, hqr ▸ hi⟩))
      · exact .inl ((readReg_writeReg_ne _ hq hr hqr v).trans (readReg_congr hd hq))
    · exact .inr (.inr (.inr ⟨hb, rest, hi⟩))
  · cases he
    exact .inl rfl

/-- Settles O43: the numbers, the commands, a write in IDLE, a step, the read-only registers, CTRL and CMD. -/
theorem registerStorage : Obligations.RegisterStorage := by
  refine ⟨Reg.isRw_ofNumber, fun _ _ _ => exec_sameDescriptor, fun s r v hs hr => ?_, fun _ _ _ hr => step_changes_rw hr,
    fun s r v hr => ?_, fun _ => ⟨rfl, rfl⟩⟩
  · exact ⟨_, hostWrite_rw_idle hr v hs, s.readReg_writeReg_same hr v, s.writeReg_mem _ v,
      fun q hq => s.readReg_writeReg_other hq v⟩
  · have hro : Reg.ofNumber r = .cap ∨ Reg.ofNumber r = .status ∨ Reg.ofNumber r = .gfr ∨ Reg.ofNumber r = .finfo := by
      simp only [List.mem_cons, List.not_mem_nil, or_false] at hr
      rcases hr with rfl | rfl | rfl | rfl <;> simp [Reg.ofNumber]
    rcases hro with h | h | h | h <;> exact hostWrite_ignored (by simp [h]) (by simp [h]) (by simp [h, Reg.isRw]) v s

/-- Settles O44: a reserved number names the register that reads as 0 and ignores writes. -/
theorem reservedRegisters : Obligations.ReservedRegisters := by
  intro s r v hr
  have h : Reg.ofNumber r = .reserved := Reg.ofNumber_reserved hr
  exact ⟨by rw [h]; rfl, hostWrite_ignored (by simp [h]) (by simp [h]) (by simp [h, Reg.isRw]) v s⟩

/-! ### Turns, held writes and CTRL (rules R13, R17, R18) -/

/-- Settles O42: the write of CMD is issued, and the latched command is the engine's move. -/
theorem stepRunsDecodedCommand : Obligations.StepRunsDecodedCommand := by
  refine ⟨fun s w i rest hs hh hi hd => ?_, fun s l hs hl hi => ?_⟩
  · calc step s = hostWrite 3 w (s.withInputs rest) := step_input (by simp [hs]) hh hi
      _ = issueWord w (s.withInputs rest) := hostWrite_cmd_idle rfl w hs
      _ = exec i (s.withInputs rest) := by simp [issueWord, hd]
  · rw [step_engine hs hi, engineStep_latched hs hl]

/-- Settles O45: what is held in BUSY, what is done first after it, and what is never held. -/
theorem heldWrites : Obligations.HeldWrites := by
  refine ⟨fun s r v rest hs hi hr => ?_, fun s r v more => step_held, fun s v rest hs hi => ?_, fun s r rest hs hi => ?_⟩
  · have hreg : Reg.ofNumber r = .cmd ∨ (Reg.ofNumber r).isRw = true := hr.imp_left fun h => by subst h; rfl
    exact (step_busy_input hs hi (by simp)).trans (hostWrite_busy hreg v hs)
  · exact (step_busy_input hs hi (by simp)).trans (hostWrite_ctrl (r := 1) rfl v (s.withInputs rest))
  · exact ⟨_, step_busy_input hs hi (by simp), s.readReg_withInputs rest _, hs, rfl⟩

theorem writeCtrl_reset {s : State} {v : Word} (h0 : v.getLsbD 0 = true) : s.writeCtrl v = s.softReset := if_pos h0

theorem writeCtrl_ack {s : State} {v : Word} (h0 : v.getLsbD 0 = false) (h1 : v.getLsbD 1 = true) :
    s.writeCtrl v = s.ack :=
  (if_neg (Bool.eq_false_iff.mp h0)).trans (if_pos h1)

theorem writeCtrl_nothing {s : State} {v : Word} (h0 : v.getLsbD 0 = false) (h1 : v.getLsbD 1 = false) :
    s.writeCtrl v = s :=
  (if_neg (Bool.eq_false_iff.mp h0)).trans (if_neg (Bool.eq_false_iff.mp h1))

/-- Settles O49: the three cases of bits 0 and 1, and the read. -/
theorem controlRegister : Obligations.ControlRegister := by
  intro s v
  rw [hostWrite_ctrl rfl v s]
  exact ⟨fun h0 => by rw [writeCtrl_reset h0], fun h0 h1 => by rw [writeCtrl_ack h0 h1],
    fun h0 h1 => by rw [writeCtrl_nothing h0 h1], rfl⟩

/-! ### The latch while BUSY lasts (rules R13, R55) -/

/-- A CTRL write that leaves the engine BUSY leaves what is latched. -/
theorem writeCtrl_latched_of_busy {s : State} {v : Word} (ht : (s.writeCtrl v).seq = .busy) :
    (s.writeCtrl v).latched = s.latched := by
  unfold State.writeCtrl at ht ⊢
  split at ht
  · cases ht
  · rw [if_neg ‹_›]
    split <;> rfl

/-- A host write from BUSY to BUSY leaves what is latched. -/
theorem hostWrite_latched_of_busy {r : Nat} {v : Word} {s t : State} (hs : s.seq = .busy) (he : hostWrite r v s = .next t)
    (ht : t.seq = .busy) : t.latched = s.latched := by
  rcases hostWrite_cases r v s with h | ⟨hidle, -⟩ | ⟨-, h⟩ | ⟨hidle, -⟩ | h
  · cases h.symm.trans he
    exact writeCtrl_latched_of_busy ht
  · simp [hs] at hidle
  · cases h.symm.trans he
    rfl
  · simp [hs] at hidle
  · cases h.symm.trans he
    rfl

/-- A host action from BUSY to BUSY changes at most the race mark of the latch. -/
theorem hostStep_latched_of_busy {x : HostAction} {s t : State} {l : Latch} (hs : s.seq = .busy) (hl : s.latched = some l)
    (he : hostStep x s = .next t) (ht : t.seq = .busy) : ∃ raced, t.latched = some { l with raced := raced } := by
  cases x with
  | write r v => exact ⟨l.raced, (hostWrite_latched_of_busy hs he ht).trans hl⟩
  | read r =>
    cases he
    exact ⟨l.raced, hl⟩
  | store a b =>
    rw [hostStore_next he, State.storeByte_latched, hl]
    exact ⟨_, rfl⟩
  | load a =>
    rw [hostLoad_next he, (sameEngine_loadByte s _).latched]
    exact ⟨l.raced, hl⟩
  | wait =>
    cases he
    exact ⟨l.raced, hl⟩
  | hardReset =>
    cases he
    cases ht

/-- The engine's move leaves BUSY. -/
theorem engineStep_leaves_busy {s t : State} {l : Latch} (hs : s.seq = .busy) (hl : s.latched = some l)
    (he : engineStep s = .next t) : t.seq ≠ .busy := by
  rw [engineStep_latched hs hl] at he
  rcases exec_busy_cases l.instr hs he with ⟨hn, -⟩ | ⟨a, rfl⟩ | ⟨g, m, rfl⟩
  · simp [hl] at hn
  · simp
  · simp

/-- Settles O46: from BUSY to BUSY a step is a host action that stores in no register and resets nothing. -/
theorem descriptorFixedWhileBusy : Obligations.DescriptorFixedWhileBusy := by
  intro s t l hs hl he ht
  rcases step_cases s with ⟨-, h⟩ | ⟨hn, -⟩ | ⟨x, rest, -, -, h⟩ | ⟨hn, -⟩
  · exact absurd ht (engineStep_leaves_busy hs hl (h ▸ he))
  · exact absurd hs hn
  · rw [h] at he
    refine ⟨?_, hostStep_latched_of_busy (s := s.withInputs rest) hs hl he ht⟩
    rcases hostStep_sameDescriptor he with hd | ⟨r, v, -, hidle, -⟩ | ⟨-, rfl⟩
    · exact (sameDescriptor_withInputs s rest).trans hd
    · simp [hs] at hidle
    · cases ht
  · exact absurd hs hn

/-! ### Reset (rules R39, R210) -/

/-- No byte outside the write set of what was latched is scrambled. -/
theorem scrambled_read_other (s : State) (a : Nat) (h : ∀ l, s.latched = some l → l.writes a = false) :
    s.scrambled.read a = s.mem.read a := by
  unfold State.scrambled
  split
  · rfl
  · next l hl => exact scramble_read_other _ _ _ _ _ (by simpa [Latch.writes] using h l hl)

theorem scrambled_of_none {s : State} (h : s.latched = none) : s.scrambled = s.mem := by
  simp [State.scrambled, h]

/-- STATUS is 0 when every field it shows is. -/
theorem statusWord_zero {s : State} (hs : s.seq = .idle) (hd : s.done = false) (hv : s.vctx = false) (hk : s.kind = none)
    (hu : s.used = 0) (hf : s.fcode = none) : s.statusWord = 0 := by
  simp [State.statusWord, hs, hd, hv, hk, hu, hf, kindCode, faultCode]

/-- Settles O55: power-on and hardware reset set the same values; only the write set of an abandoned command is scrambled. -/
theorem resetValues : Obligations.ResetValues := by
  have powerOn : ∀ p c m, (State.resetWith p c m).statusWord = 0 := fun _ _ _ =>
    statusWord_zero rfl rfl rfl rfl rfl rfl
  refine ⟨?_, fun p c m => ⟨?_, rfl⟩, fun s => ⟨s.hardReset, rfl, ?_, rfl, scrambled_of_none, scrambled_read_other s⟩⟩
  · exact ⟨rfl, powerOn _ _ _, rfl, rfl, rfl, rfl, rfl, rfl, rfl, rfl, rfl, rfl, rfl⟩
  · exact ⟨rfl, powerOn p c m, rfl, rfl, rfl, rfl, rfl, rfl, rfl, rfl, rfl, rfl, rfl⟩
  · exact ⟨rfl, statusWord_zero rfl rfl rfl rfl rfl rfl, rfl, rfl, rfl, rfl, rfl, rfl, rfl, rfl, rfl, rfl, rfl⟩

end Sys2Proof.Machine

end
section

/-! ### STATUS and CAP (rules R15, R16) -/

namespace Sys2Proof.Machine

theorem kindCode_lt (k : Option Kind) : kindCode k < 16 := by
  cases k with
  | none => decide
  | some k => cases k <;> decide

theorem faultCode_lt (f : Option FaultCode) : faultCode f < 16 := by
  cases f with
  | none => decide
  | some f => cases f <;> decide

/-- A bit of a word, by division. -/
theorem getLsbD_eq_div (w : Word) (i : Nat) : w.getLsbD i = decide (w.toNat / 2 ^ i % 2 = 1) := by
  rw [← BitVec.testBit_toNat, Nat.testBit_eq_decide_div_mod_eq]

theorem ite_one_zero (p : Prop) [Decidable p] : (if p then 1 else 0 : Nat) = (decide p).toNat := by
  split <;> simp [*]

/-- STATUS as a number: nothing is lost to 64 bits. -/
theorem statusWord_toNat (s : State) :
    s.statusWord.toNat = (decide (s.seq = .busy)).toNat + s.done.toNat * 2 + (decide (s.seq = .fault)).toNat * 4
      + s.vctx.toNat * 8 + kindCode s.kind * 16 + s.used.toNat * 256 + faultCode s.fcode * 65536 := by
  have hk := kindCode_lt s.kind
  have hf := faultCode_lt s.fcode
  have hu := s.used.isLt
  have hbusy := (decide (s.seq = .busy)).toNat_le
  have hdone := s.done.toNat_le
  have hfault := (decide (s.seq = .fault)).toNat_le
  have hvctx := s.vctx.toNat_le
  rw [State.statusWord, BitVec.toNat_ofNat]
  simp only [ite_one_zero, Bool.decide_eq_true]
  omega

/-- Settles O48: each field is a digit of that number. -/
theorem statusFields : Obligations.StatusFields := by
  intro s w
  have hw : w.toNat = _ := statusWord_toNat s
  have hk := kindCode_lt s.kind
  have hf := faultCode_lt s.fcode
  have hu := s.used.isLt
  have hbusy := (decide (s.seq = .busy)).toNat_le
  have hdone := s.done.toNat_le
  have hfault := (decide (s.seq = .fault)).toNat_le
  have hvctx := s.vctx.toNat_le
  have flag : ∀ b : Bool, b = decide (b.toNat = 1) := by decide
  refine ⟨?_, ?_, ?_, ?_, ?_, ?_, ?_, ?_, ?_⟩
  · rw [getLsbD_eq_div, flag (decide (s.seq = .busy)), decide_eq_decide]; omega
  · rw [getLsbD_eq_div, flag s.done, decide_eq_decide]; omega
  · rw [getLsbD_eq_div, flag (decide (s.seq = .fault)), decide_eq_decide]; omega
  · rw [getLsbD_eq_div, flag s.vctx, decide_eq_decide]; omega
  all_goals unfold bitField; omega

/-- CAP as a number: the set of backends, then LOGVB and NVREG, or 0 for both. -/
theorem capWord_toNat (p : Platform) :
    (capWord p).toNat = 1 + p.wideSup.toNat * 2 + 65536 * (if hasWide p then p.logVB.toNat else 0)
      + 16777216 * (if hasWide p then p.nvreg.toNat else 0) := by
  have hw := p.wideSup.isLt
  have hl := p.logVB.isLt
  have hn := p.nvreg.isLt
  rw [capWord, BitVec.toNat_ofNat, bkndSup]
  split <;> omega

/-- Bit `b` of CAP says whether backend `b` exists. -/
theorem capWord_backend (p : Platform) {b : Nat} (hb : b < 16) : (capWord p).getLsbD b = backendSupported p b := by
  have hw := p.wideSup.isLt
  have low : (capWord p).toNat = 2 ^ 16 * ((if hasWide p then p.logVB.toNat else 0)
      + 256 * (if hasWide p then p.nvreg.toNat else 0)) + (2 * p.wideSup.toNat + 1) := by
    rw [capWord_toNat]; omega
  rw [← BitVec.testBit_toNat, low, Nat.testBit_two_pow_mul_add _ (by omega), if_pos hb]
  cases b with
  | zero => simp [backendSupported]
  | succ b => simp [backendSupported, Nat.testBit_succ, BitVec.testBit_toNat, Nat.mul_add_div]

/-- No step changes the platform (rule R15). -/
theorem step_platform {s t : State} (he : step s = .next t) : t.platform = s.platform := by
  have write : ∀ (u : State) (reg : Reg) (v : Word), (u.writeReg reg v).platform = u.platform :=
    fun u reg v => (sameEngine_writeReg u reg v).platform
  rcases step_cases s with ⟨-, h⟩ | ⟨-, r, v, more, -, h⟩ | ⟨x, rest, -, -, h⟩ | ⟨-, -, -, h⟩ <;> rw [h] at he
  · exact (engineStep_sameDescriptor he).platform
  · rcases hostWrite_sameDescriptor he with hd | ⟨-, -, rfl⟩
    · exact hd.platform
    · exact write _ _ _
  · rcases hostStep_sameDescriptor he with hd | ⟨_, _, -, -, -, rfl⟩ | ⟨-, rfl⟩
    · exact hd.platform
    · exact write _ _ _
    · rfl
  · cases he
    rfl

/-- Settles O47: the fields are digits of CAP, and the platform is constant. -/
theorem capConstant : Obligations.CapConstant := by
  refine ⟨fun p => ⟨capWord_backend p (by decide), fun b => capWord_backend p, ?_, ?_, ?_⟩,
    fun s t he => congrArg capWord (step_platform he)⟩
  all_goals
    have hw := p.wideSup.isLt
    have hl := p.logVB.isLt
    have hn := p.nvreg.isLt
    rw [bitField, capWord_toNat]
    split <;> omega

/-! ### The tables (rules R29 to R33) -/

/-- Both tables invert each other: the entries for exponents below 255. -/
theorem log2_pow2 {e : Nat} (h : e < 255) : pow2 e ≠ 0 ∧ log2 (pow2 e) = e := by
  have all : ∀ i : Fin 255, pow2 i.val ≠ 0 ∧ log2Table.getD ((pow2 i.val).toNat - 1) 0 = i.val := by decide +kernel
  obtain ⟨hne, hlog⟩ := all ⟨e, h⟩
  exact ⟨hne, by rw [log2, if_neg hne]; exact hlog⟩

/-- And the entries for the nonzero bytes (rule R32). -/
theorem pow2_log2 {a : Byte} (h : a ≠ 0) : pow2 (log2 a) = a := by
  have all : ∀ i : Fin 255, pow2 (log2Table.getD i.val 0) = BitVec.ofNat 8 (i.val + 1) := by decide +kernel
  have hpos : a.toNat ≠ 0 := fun e => h (BitVec.eq_of_toNat_eq (by simpa using e))
  have hlt : a.toNat - 1 < 255 := by have := a.isLt; omega
  have hback : a.toNat - 1 + 1 = a.toNat := by omega
  rw [log2, if_neg h, all ⟨a.toNat - 1, hlt⟩, hback]
  simp

/-- `LOG2[a]` is the only exponent below 255 of `a` (rule R31). -/
theorem eq_log2_of_pow2 {a : Byte} {e : Nat} (h : e < 255) (hp : pow2 e = a) : e = log2 a := by
  rw [← hp, (log2_pow2 h).2]

/-- Settles O5, by the inverse tables. -/
theorem tableInvariant : Obligations.TableInvariant :=
  fun a ha => ⟨pow2_log2 ha, Nat.lt_succ_iff.mp (log2_lt a ha), fun _ he => eq_log2_of_pow2 (Nat.lt_succ_iff.mpr he)⟩

/-- The table has period 255: the recurrence R30 starts again from 1 at entry 255. -/
theorem pow2_add_255 (e : Nat) (h : e ≤ 255) : pow2 (e + 255) = pow2 e := by
  induction e with
  | zero => decide
  | succ e ih =>
    calc pow2 (e + 1 + 255) = pow2 (e + 255 + 1) := by rw [Nat.add_right_comm]
      _ = mul2 (pow2 (e + 255)) := pow2_succ _ (by omega)
      _ = mul2 (pow2 e) := by rw [ih (by omega)]
      _ = pow2 (e + 1) := (pow2_succ e (by omega)).symm

/-- Every entry is one of the first 255. -/
theorem pow2_mod_255 {e : Nat} (h : e ≤ 510) : pow2 e = pow2 (e % 255) := by
  by_cases h1 : e < 255
  · rw [Nat.mod_eq_of_lt h1]
  · have h2 : pow2 e = pow2 (e - 255) := by
      rw [← pow2_add_255 (e - 255) (by omega), Nat.sub_add_cancel (by omega)]
    by_cases h3 : e - 255 < 255
    · rw [h2, Nat.mod_eq_sub_mod (by omega), Nat.mod_eq_of_lt h3]
    · obtain rfl : e = 510 := by omega
      exact h2.trans (pow2_add_255 0 (by omega))

/-- Settles O6: the inverse tables, the period and the bound of `LOG2`. -/
theorem tableProperties : Obligations.TableProperties := by
  refine ⟨fun a ha => ⟨log2 a, ⟨log2_lt a ha, pow2_log2 ha⟩, fun e ⟨he, hp⟩ => eq_log2_of_pow2 he hp⟩,
    fun e => pow2_mod_255, pow2_mod_255 (by decide), pow2_mod_255 (by decide), fun e he => ?_, fun a e ha he => ?_⟩
  · rw [pow2_mod_255 he]
    exact (log2_pow2 (Nat.mod_lt e (by decide))).1
  · have := log2_lt a ha
    omega

end Sys2Proof.Machine

end
section

/-! ### What a command writes depends on its read set (rules R10, R47) -/

namespace Sys2Proof.Machine

@[simp] theorem RaidzMap.span_ptr (m : RaidzMap) (c : Nat) : (m.span c).ptr = (m.col c).ptr := by
  unfold RaidzMap.span
  split <;> rfl

theorem RaidzMap.span_parity {m : RaidzMap} {c : Nat} (h : c < m.np) : (m.span c).len = m.commonLen := by
  rw [RaidzMap.span, if_pos h]
  rfl

theorem RaidzMap.span_data (m : RaidzMap) (i : Nat) : m.span (m.np + i) = m.dataCol i :=
  if_neg (Nat.not_lt.mpr (Nat.le_add_right m.np i))

/-- The memories agree on every byte that the kind may read. -/
def AgreeOnReads (k : Kind) (m : RaidzMap) (targets : List Nat) (m₁ m₂ : Memory) : Prop :=
  ∀ c ∈ readCols k m targets, ∀ o, o < (m.span c).len → m₁.read ((m.col c).ptr + o) = m₂.read ((m.col c).ptr + o)

/-- Agreement on the read set of a latch. -/
theorem agreeOnReads_of_latch {l : Latch} {m₁ m₂ : Memory} (h : ∀ a, l.reads a = true → m₁.read a = m₂.read a) :
    AgreeOnReads l.kind l.map l.targets m₁ m₂ := by
  intro c hc o ho
  refine h _ (List.any_eq_true.mpr ⟨_, List.mem_map_of_mem hc, ?_⟩)
  rw [contains_iff, RaidzMap.span_ptr]
  omega

/-- A generation reads every data column. -/
theorem mem_readCols_of_gen {k : Kind} (hg : k.isGen = true) (m : RaidzMap) (targets : List Nat) {i : Nat} (hi : i < m.n) :
    m.np + i ∈ readCols k m targets := by
  have hgf : k.isGf = false := by cases k <;> simp_all [Kind.isGen, Kind.isGf]
  simp [readCols, hg, hgf, hi]

/-- A reconstruction reads the parities of its kind. -/
theorem mem_readCols_of_parity {k : Kind} (hg : k.isGen = false) (m : RaidzMap) (targets : List Nat) {p : Nat}
    (hp : p ∈ k.parities) : p ∈ readCols k m targets := by
  have hgf : k.isGf = false := by cases k <;> simp_all [Kind.parities, Kind.isGf]
  simp [readCols, hg, hgf, hp]

/-- A reconstruction reads the surviving data columns. -/
theorem mem_readCols_of_survivor {k : Kind} (hg : k.isGen = false) (hgf : k.isGf = false) (m : RaidzMap)
    (targets : List Nat) {i : Nat} (hi : i ∈ survivors m targets) : m.np + i ∈ readCols k m targets := by
  obtain ⟨hn, ht⟩ := List.mem_filter.mp hi
  have hno : m.np + i ∉ targets := by
    intro hmem
    have : i ∈ dataTargets m targets := List.mem_map.mpr ⟨_, hmem, by omega⟩
    simp [this] at ht
  simp_all [readCols]

section

variable {k : Kind} {m : RaidzMap} {targets : List Nat} {m₁ m₂ : Memory} (h : AgreeOnReads k m targets m₁ m₂)

include h

/-- The padded bytes of a column that is read are equal. -/
theorem AgreeOnReads.paddedByte_eq {i : Nat} (hi : m.np + i ∈ readCols k m targets) (o : Nat) :
    paddedByte m m₁ i o = paddedByte m m₂ i o := by
  unfold paddedByte
  split
  · next ho => exact h _ hi o (by rw [RaidzMap.span_data]; exact ho)
  · rfl

/-- The stored parity bytes of a reconstruction's kind are equal. -/
theorem AgreeOnReads.parByte_eq (hg : k.isGen = false) {p : Nat} (hp : p ∈ k.parities) (hnp : p < m.np) {o : Nat}
    (ho : o < m.commonLen) : parByte m m₁ p o = parByte m m₂ p o :=
  h p (mem_readCols_of_parity hg m targets hp) o (by rw [RaidzMap.span_parity hnp]; exact ho)

/-- A generation computes equal parities. -/
theorem AgreeOnReads.parityValue_eq (hg : k.isGen = true) (p o : Nat) :
    parityValue p m m₁ o = parityValue p m m₂ o := by
  have pad : ∀ i ∈ List.range m.n, paddedByte m m₁ i o = paddedByte m m₂ i o := fun i hi =>
    h.paddedByte_eq (mem_readCols_of_gen hg m targets (List.mem_range.mp hi)) o
  unfold parityValue
  split
  · exact xorOver_congr pad
  · exact xorOver_congr fun i hi => by rw [pad i hi]
  · exact xorOver_congr fun i hi => by rw [pad i hi]

/-- A reconstruction computes equal solutions below `L`. -/
theorem AgreeOnReads.recSolution_eq (hg : k.isGen = false) (hgf : k.isGf = false) (hpar : ∀ p ∈ k.parities, p < m.np)
    {o : Nat} (ho : o < m.commonLen) : recSolution k m targets m₁ o = recSolution k m targets m₂ o := by
  have pad : ∀ i ∈ survivors m targets, paddedByte m m₁ i o = paddedByte m m₂ i o := fun i hi =>
    h.paddedByte_eq (mem_readCols_of_survivor hg hgf m targets hi) o
  have stored : ∀ p ∈ k.parities, parByte m m₁ p o = parByte m m₂ p o := fun p hp =>
    h.parByte_eq hg hp (hpar p hp) ho
  have hP : 0 ∈ k.parities → syndromeP m targets m₁ o = syndromeP m targets m₂ o := fun hp => by
    rw [syndromeP, syndromeP, stored 0 hp, xorOver_congr pad]
  have hQ : 1 ∈ k.parities → syndromeQ m targets m₁ o = syndromeQ m targets m₂ o := fun hp => by
    rw [syndromeQ, syndromeQ, stored 1 hp, xorOver_congr fun i hi => by rw [pad i hi]]
  have hR : 2 ∈ k.parities → syndromeR m targets m₁ o = syndromeR m targets m₂ o := fun hp => by
    rw [syndromeR, syndromeR, stored 2 hp, xorOver_congr fun i hi => by rw [pad i hi]]
  cases k <;> simp_all [recSolution, Kind.parities]

end

/-- No data column is longer than `L` (rule R25). -/
theorem ValidMap.dataLen_le {m : RaidzMap} (hv : ValidMap m) {c : Nat} (hlo : m.np ≤ c) (hhi : c < m.ncols) :
    (m.col c).len ≤ m.commonLen := by
  have hn : m.n = m.ncols - m.np := rfl
  have hc : (m.col c).len = m.len (c - m.np) := by rw [RaidzMap.len, RaidzMap.dataCol, Nat.add_sub_cancel' hlo]
  rw [hc]
  by_cases hlast : c - m.np + 1 < m.n
  · exact (hv.bigLen _ hlast).le
  · have : c - m.np = m.n - 1 := by omega
    exact this ▸ hv.lastLen

/-- The bytes stored to the targets depend on the solution below each target's length only (rule R133). -/
theorem targetCells_congr {m : RaidzMap} {targets : List Nat} {sol sol' : Nat → List Byte}
    (h : ∀ t ∈ targets, ∀ o, o < (m.col t).len → sol o = sol' o) :
    targetCells m targets sol = targetCells m targets sol' := by
  refine List.flatMap_congr fun tj htj => List.map_congr_left fun o ho => ?_
  rw [h tj.1 (List.fst_mem_of_mem_zipIdx htj) o (List.mem_range.mp ho)]

/-- A valid job is no GF command's. -/
theorem ValidJob.isGf_false {k : Kind} {m : RaidzMap} {targets : List Nat} (h : ValidJob k m targets) :
    k.isGf = false := by
  cases k
  case gfExp2 => exact absurd (h.recTargets rfl).count (by simp [Kind.targetCount])
  case gfMul => exact absurd (h.recTargets rfl).count (by simp [Kind.targetCount])
  all_goals rfl

/-- What a valid job stores is the same on memories that agree on its reads. -/
theorem ValidJob.jobCells_eq {k : Kind} {m : RaidzMap} {targets : List Nat} (hj : ValidJob k m targets)
    {m₁ m₂ : Memory} (h : AgreeOnReads k m targets m₁ m₂) : jobCells k m targets m₁ = jobCells k m targets m₂ := by
  cases hg : k.isGen with
  | true =>
    obtain rfl := hj.genTargets hg
    rw [jobCells_gen k m m₁ hg, jobCells_gen k m m₂ hg]
    exact List.flatMap_congr fun p _ => List.map_congr_left fun o _ => by rw [h.parityValue_eq hg p o]
  | false =>
    have hgf := hj.isGf_false
    have hexp : k ≠ .gfExp2 := by rintro rfl; cases hgf
    have hmul : k ≠ .gfMul := by rintro rfl; cases hgf
    rw [jobCells_rec k m targets m₁ hg hexp hmul, jobCells_rec k m targets m₂ hg hexp hmul]
    refine targetCells_congr fun t ht o ho => h.recSolution_eq hg hgf hj.parities ?_
    obtain ⟨hlo, hhi⟩ := (hj.recTargets hg).inData t ht
    exact lt_of_lt_of_le ho (hj.validMap.dataLen_le hlo hhi)

/-- Settles O35: a valid latch holds a valid job. -/
theorem resultDependsOnReadSetOnly : Obligations.ResultDependsOnReadSetOnly := by
  intro l m₁ m₂ hm hl h
  obtain ⟨-, hj⟩ := hl.map hm
  exact hj.jobCells_eq (agreeOnReads_of_latch h)

/-! ### Lane operations (rules R37, R153 to R158) -/

/-- The addresses of a batch with the lanes of a register, lane by lane (rule R42). -/
theorem zip_batch (s : State) (a : Nat) {l : List Byte} (hl : l.length = vbytes s.platform) :
    (batch s a).addrs.zip l = (List.range (vbytes s.platform)).map fun j => (a + j, l.getD j 0) := by
  apply List.ext_getElem
  · simp [batch, Segment.addrs, hl]
  · intro j h₁ h₂
    have hj : j < l.length := by simpa [hl] using h₂
    simp [batch, Segment.addrs, hj]

/-- A batch of mapped bytes has no unmapped address. -/
theorem unmappedIn_batch {s : State} {a : Nat} (h : ∀ j, j < vbytes s.platform → mapped s.platform (a + j) = true) :
    unmappedIn s.platform [batch s a] = [] := by
  rw [List.eq_nil_iff_forall_not_mem]
  intro x hx
  obtain ⟨⟨g, hg, hin⟩, hno⟩ := (mem_unmappedIn _ _ _).mp hx
  obtain rfl := List.mem_singleton.mp hg
  obtain ⟨hlo, hhi⟩ := (contains_iff _ _).mp hin
  simp only [batch] at hlo hhi
  have := h (x - a) (by omega)
  rw [Nat.add_sub_cancel' hlo, hno] at this
  cases this

/-- What replacing the lanes of one register leaves: the shape, memory and every other register. -/
theorem setLanes_frame {s : State} (hs : FileShape s) (r : Nat) {l : List Byte} (hl : l.length = vbytes s.platform) :
    FileShape (s.setLanes r l) ∧ (s.setLanes r l).mem = s.mem ∧ ∀ x, x ≠ r → (s.setLanes r l).lanes x = s.lanes x :=
  ⟨fileShape_setLanes hs r hl, rfl, fun _ hx => lanes_setLanes_other s hx l⟩

theorem getD_map_mul2 (l : List Byte) (j : Nat) : (l.map mul2).getD j 0 = mul2 (l.getD j 0) := by
  simpa only [mul2_zero] using List.getD_map l 0 mul2 (n := j)

theorem getD_map_mul4 (l : List Byte) (j : Nat) : (l.map mul4).getD j 0 = mul4 (l.getD j 0) := by
  simpa only [mul4_zero] using List.getD_map l 0 mul4 (n := j)

theorem getD_zipWith_xor {l l' : List Byte} {j : Nat} (h : j < l.length) (h' : j < l'.length) :
    (List.zipWith (· ^^^ ·) l l').getD j 0 = l.getD j 0 ^^^ l'.getD j 0 := by
  simp [h, h']

section

variable {s : State} {r : Nat} (hs : FileShape s) (hr : r < numVregs s.platform)

include hs hr

theorem lt_vfile_length : r < s.vfile.length := by rw [hs.count]; exact hr

/-- `V[r] <- [A]` (rule R153). -/
theorem laneStep_vload {a : Nat} (h : ∀ j, j < vbytes s.platform → mapped s.platform (a + j) = true) :
    laneStep (.vload r a) s = .ok (s.setLanes r ((batch s a).addrs.map s.mem.read)) := by
  rw [laneStep_runs (by simpa [LaneOp.regs] using lt_vfile_length hs hr), laneEffect, unmappedIn_batch h]

/-- `V[r] <- V[r] xor V[q]` (rule R154). -/
theorem laneStep_vxor {q : Nat} (hq : q < numVregs s.platform) :
    laneStep (.vxor r q) s = .ok (s.setLanes r (List.zipWith (· ^^^ ·) (s.lanes r) (s.lanes q))) := by
  rw [laneStep_runs (by simpa [LaneOp.regs] using ⟨lt_vfile_length hs hr, lt_vfile_length hs hq⟩), laneEffect]

/-- `V[r] <- 2 (*) V[r]` (rule R155). -/
theorem laneStep_vmul2 : laneStep (.vmul2 r) s = .ok (s.setLanes r ((s.lanes r).map mul2)) := by
  rw [laneStep_runs (by simpa [LaneOp.regs] using lt_vfile_length hs hr), laneEffect]

/-- `V[r] <- 4 (*) V[r]` (rule R156). -/
theorem laneStep_vmul4 : laneStep (.vmul4 r) s = .ok (s.setLanes r ((s.lanes r).map mul4)) := by
  rw [laneStep_runs (by simpa [LaneOp.regs] using lt_vfile_length hs hr), laneEffect]

/-- `[A] <- V[r]` (rule R157), lane by lane. -/
theorem laneStep_vstore {a : Nat} (h : ∀ j, j < vbytes s.platform → mapped s.platform (a + j) = true) :
    laneStep (.vstore r a) s = .ok { s with
      mem := s.mem.writeAll ((List.range (vbytes s.platform)).map fun j => (a + j, (s.lanes r).getD j 0)) } := by
  rw [laneStep_runs (by simpa [LaneOp.regs] using lt_vfile_length hs hr), laneEffect, unmappedIn_batch h,
    zip_batch s a (lanes_length hs hr)]

end

/-- One cell for each lane, read back. -/
theorem read_writeLanes (m : Memory) (a n : Nat) (f : Nat → Byte) {j : Nat} (hj : j < n) :
    (m.writeAll ((List.range n).map fun j => (a + j, f j))).read (a + j) = f j := by
  refine Memory.read_writeAll_mem _ m _ _ (List.mem_map.mpr ⟨j, List.mem_range.mpr hj, rfl⟩) fun c hc hcj => ?_
  obtain ⟨i, -, rfl⟩ := List.mem_map.mp hc
  rw [Nat.add_left_cancel hcj]

/-- And every byte outside the batch as before. -/
theorem read_writeLanes_other (m : Memory) (a n : Nat) (f : Nat → Byte) {x : Nat} (hx : x < a ∨ a + n ≤ x) :
    (m.writeAll ((List.range n).map fun j => (a + j, f j))).read x = m.read x := by
  refine Memory.read_writeAll_other _ m x fun c hc hcx => ?_
  obtain ⟨i, hi, rfl⟩ := List.mem_map.mp hc
  have := List.mem_range.mp hi
  dsimp only at hcx
  omega

/-- A register number at or above NVREG, or any of an engine without a wide-vector backend, is none of the file (rule R37). -/
theorem vfile_length_le {s : State} (hs : FileShape s) {r : Nat}
    (h : hasWide s.platform = true → s.platform.nvreg.toNat ≤ r) : s.vfile.length ≤ r := by
  rw [hs.count, numVregs]
  split
  · next hw => exact h hw
  · exact Nat.zero_le r

/-- Settles O39: the effects lane by lane, the hint without one, and the stop on a register that the file lacks. -/
theorem laneOperations : Obligations.LaneOperations := by
  refine ⟨fun s r q a hs hr hq h => ?_, fun s a => rfl, fun s r q a hs h op hop => ?_⟩
  · have hlen := lanes_length hs hr
    have hlenq := lanes_length hs hq
    have hfile := lt_vfile_length hs hr
    refine ⟨⟨_, laneStep_vload hs hr h, setLanes_frame hs r ?_, fun j hj => ?_⟩,
      ⟨_, laneStep_vxor hs hr hq, setLanes_frame hs r ?_, fun j hj => ?_⟩,
      ⟨_, laneStep_vmul2 hs hr, setLanes_frame hs r ?_, fun j _ => ?_⟩,
      ⟨_, laneStep_vmul4 hs hr, setLanes_frame hs r ?_, fun j _ => ?_⟩,
      ⟨_, laneStep_vstore hs hr h, rfl, fun j hj => read_writeLanes s.mem a _ _ hj,
        fun x hx => read_writeLanes_other s.mem a _ _ hx⟩⟩
    · simp [batch, Segment.addrs]
    · rw [lanes_setLanes hfile]
      simp [batch, Segment.addrs, hj]
    · simp [hlen, hlenq]
    · rw [lanes_setLanes hfile, getD_zipWith_xor (by omega) (by omega)]
    · simp [hlen]
    · rw [lanes_setLanes hfile, getD_map_mul2]
    · simp [hlen]
    · rw [lanes_setLanes hfile, getD_map_mul4, mul4]
  · have hno := vfile_length_le hs h
    simp only [List.mem_cons, List.not_mem_nil, or_false] at hop
    rcases hop with rfl | rfl | rfl | rfl | rfl <;> exact laneStep_noRegister rfl hno

end Sys2Proof.Machine

end

/-! ## Proofs of the memory family: the canonical form, the write set of a data pass, the address-range, overlap and alignment
checks -/

section

/-! ### What a data pass does to memory, and the canonical form (rules R40, R43, R47) -/

namespace Sys2Proof.Machine

/-- What memory is after a BUSY command ended: as before (a GF command), scrambled (a bus error or a race), or with the
command's own cells stored. -/
theorem exec_busy_mem (i : Instr) {s t : State} (h : s.seq = .busy) (he : exec i s = .next t) :
    t.mem = s.mem ∨ t.mem = s.scrambled ∨ ∃ l, s.latched = some l ∧ i.isMap = true ∧
      t.mem = s.mem.writeAll (cellsOf i l.kind l.map l.targets s.mem) := by
  cases hm : i.isMap with
  | true =>
    rw [exec_busy_map i hm s h, Host.Outcome.next.injEq] at he
    subst he
    cases hl : s.latched with
    | none => exact .inl (by rw [endPass_none _ hl])
    | some l =>
      rcases endPass_cases (cellsOf i) hl with ⟨a, -, ht⟩ | ⟨-, -, ht⟩ | ⟨-, -, ht⟩ <;> rw [ht]
      · exact .inr (.inl rfl)
      · exact .inr (.inl rfl)
      · exact .inr (.inr ⟨l, rfl, rfl, rfl⟩)
  | false =>
    obtain ⟨op, hop⟩ := exec_busy_gf i hm h
    rw [hop, Host.Outcome.next.injEq] at he
    subst he
    left
    cases hl : s.latched with
    | none => rw [endGf_none _ hl]
    | some l => rw [endGf_some _ hl, State.finish_mem]

/-- Every command keeps the canonical form, in every sequencing state. -/
theorem exec_mem_wf {i : Instr} {s t : State} (hw : Memory.wf s.mem) (he : exec i s = .next t) : Memory.wf t.mem := by
  cases hs : s.seq with
  | idle => rcases exec_idle_cases i hs he with ⟨r, rfl⟩ | ⟨bk, k, rfl⟩ <;> exact hw
  | busy =>
    rcases exec_busy_mem i hs he with h | h | ⟨l, -, -, h⟩ <;> rw [h]
    · exact hw
    · exact scrambled_wf hw
    · exact Memory.wf_writeAll hw _
  | fault =>
    rw [exec_fault i hs, Host.Outcome.next.injEq] at he
    exact he ▸ hw

theorem engineStep_mem_wf {s t : State} (hw : Memory.wf s.mem) (he : engineStep s = .next t) : Memory.wf t.mem := by
  rcases engineStep_cases s with ⟨l, -, -, h⟩ | h <;> rw [h] at he
  · exact exec_mem_wf hw he
  · cases he
    exact hw

theorem writeCtrl_mem_wf {s : State} (hw : Memory.wf s.mem) (v : Word) : Memory.wf (s.writeCtrl v).mem := by
  unfold State.writeCtrl
  split
  · exact scrambled_wf hw
  · split <;> exact hw

theorem issueWord_mem_wf {v : Word} {s t : State} (hw : Memory.wf s.mem) (he : issueWord v s = .next t) :
    Memory.wf t.mem := by
  unfold issueWord at he
  split at he
  · exact exec_mem_wf hw he
  · cases he
    exact hw

theorem hostWrite_mem_wf {r : Nat} {v : Word} {s t : State} (hw : Memory.wf s.mem) (he : hostWrite r v s = .next t) :
    Memory.wf t.mem := by
  rcases hostWrite_cases r v s with h | ⟨-, h⟩ | ⟨-, h⟩ | ⟨-, reg, -, h⟩ | h <;> rw [h] at he
  · cases he
    exact writeCtrl_mem_wf hw v
  · exact issueWord_mem_wf hw he
  · cases he
    exact hw
  · cases he
    rw [State.writeReg_mem]
    exact hw
  · cases he
    exact hw

/-- A load changes no byte. -/
@[simp] theorem State.loadByte_mem (s : State) (a : Nat) : (s.loadByte a).mem = s.mem := by
  unfold State.loadByte
  split <;> rfl

theorem hostStep_mem_wf {x : HostAction} {s t : State} (hw : Memory.wf s.mem) (he : hostStep x s = .next t) :
    Memory.wf t.mem := by
  cases x with
  | write r v => exact hostWrite_mem_wf hw he
  | read r =>
    cases he
    exact hw
  | store a b =>
    rw [hostStore_next he, State.storeByte_mem]
    exact Memory.wf_write hw _ _
  | load a =>
    rw [hostLoad_next he, State.loadByte_mem]
    exact hw
  | wait =>
    cases he
    exact hw
  | hardReset =>
    cases he
    exact scrambled_wf hw

/-- Settles O58: each of the four things a step can be changes memory, if at all, by writes, which keep the canonical form. -/
theorem stepKeepsMemoryCanonical : Obligations.StepKeepsMemoryCanonical := by
  refine ⟨Memory.wf_nil, fun s t hw he => ?_⟩
  rcases step_cases s with ⟨-, h⟩ | ⟨-, r, v, more, -, h⟩ | ⟨x, rest, -, -, h⟩ | ⟨-, -, -, h⟩ <;> rw [h] at he
  · exact engineStep_mem_wf hw he
  · exact hostWrite_mem_wf (s := s.withHeld more) hw he
  · exact hostStep_mem_wf (s := s.withInputs rest) hw he
  · cases he
    exact hw

/-! ### The write set (rule R47) -/

/-- The cells of a parity column lie in its span. -/
theorem parityCells_addr {p : Nat} {m : RaidzMap} {mem : Memory} (hp : p < m.np) {c : Host.Cell}
    (hc : c ∈ parityCells p m mem) : (m.span p).contains c.1 = true := by
  obtain ⟨o, ho, rfl⟩ := List.mem_map.mp hc
  have := List.mem_range.mp ho
  rw [contains_iff, RaidzMap.span_ptr, RaidzMap.span_parity hp]
  dsimp only
  omega

/-- Each cell of a reconstruction lies in one of its target columns (rule R133). -/
theorem targetCells_addr {m : RaidzMap} {targets : List Nat} {sol : Nat → List Byte} {c : Host.Cell}
    (hc : c ∈ targetCells m targets sol) : ∃ t ∈ targets, (m.col t).contains c.1 = true := by
  obtain ⟨tj, htj, hcell⟩ := List.mem_flatMap.mp hc
  obtain ⟨o, ho, rfl⟩ := List.mem_map.mp hcell
  have := List.mem_range.mp ho
  refine ⟨tj.1, List.fst_mem_of_mem_zipIdx htj, ?_⟩
  rw [contains_iff]
  dsimp only
  omega

/-- A valid job stores in the spans of the columns its kind writes only. -/
theorem ValidJob.jobCells_addr {k : Kind} {m : RaidzMap} {targets : List Nat} (hj : ValidJob k m targets) {mem : Memory}
    {c : Host.Cell} (hc : c ∈ jobCells k m targets mem) :
    ∃ g ∈ writeSpans k m targets, g.contains c.1 = true := by
  suffices ∃ w ∈ writtenCols k targets, (m.span w).contains c.1 = true by
    obtain ⟨w, hw, hin⟩ := this
    exact ⟨_, List.mem_map_of_mem hw, hin⟩
  cases hg : k.isGen with
  | true =>
    obtain rfl := hj.genTargets hg
    rw [jobCells_gen k m mem hg] at hc
    obtain ⟨p, hp, hcell⟩ := List.mem_flatMap.mp hc
    exact ⟨p, by simpa [writtenCols, hg] using hp, parityCells_addr (hj.parities p hp) hcell⟩
  | false =>
    have hgf := hj.isGf_false
    rw [jobCells_rec k m targets mem hg (by rintro rfl; cases hgf) (by rintro rfl; cases hgf)] at hc
    obtain ⟨t, ht, hin⟩ := targetCells_addr hc
    have hdata : ¬t < m.np := Nat.not_lt.mpr ((hj.recTargets hg).inData t ht).1
    exact ⟨t, by simpa [writtenCols, hg] using ht, by rwa [RaidzMap.span, if_neg hdata]⟩

/-- Settles O34: scrambling touches the write set of the latch only, and so do the cells of its valid job. -/
theorem onlyWriteSetChanges : Obligations.OnlyWriteSetChanges := by
  intro s t l hs hl hv he a ha
  rcases exec_busy_mem l.instr hs he with h | h | ⟨l', hl', hm, h⟩ <;> rw [h]
  · refine scrambled_read_other s a fun l' hl' => ?_
    rw [hl, Option.some.injEq] at hl'
    exact hl' ▸ ha
  · rw [hl, Option.some.injEq] at hl'
    subst hl'
    obtain ⟨hkind, hj⟩ := hv.map hm
    rw [cellsOf_eq hkind]
    refine Memory.read_writeAll_other _ _ _ fun c hc hca => ?_
    obtain ⟨g, hg, hin⟩ := hj.jobCells_addr hc
    exact List.any_eq_false.mp ha g hg (hca ▸ hin)

end Sys2Proof.Machine

end
section

/-! ### The last checks of a map command (rules R44, R45, R49, R181, R186) -/

namespace Sys2Proof.Machine

/-! #### Searches along an ascending list -/

/-- What stands before a member of an ascending list is smaller. -/
theorem ascending_split {l : List Nat} (hl : l.Pairwise (· < ·)) {w : Nat} (hw : w ∈ l) :
    ∃ l₁ l₂, l = l₁ ++ w :: l₂ ∧ ∀ x ∈ l₁, x ∈ l ∧ x < w := by
  obtain ⟨l₁, l₂, rfl⟩ := List.append_of_mem hw
  obtain ⟨-, -, hlt⟩ := List.pairwise_append.mp hl
  exact ⟨l₁, l₂, rfl, fun x hx => ⟨List.mem_append_left _ hx, hlt x hx w List.mem_cons_self⟩⟩

/-- In an ascending list `find?` answers the least member with the property. -/
theorem find?_ascending {l : List Nat} (hl : l.Pairwise (· < ·)) {q : Nat → Bool} {c : Nat} (hc : c ∈ l)
    (hq : q c = true) (hmin : ∀ x ∈ l, x < c → q x = false) : l.find? q = some c := by
  obtain ⟨l₁, l₂, heq, hlt⟩ := ascending_split hl hc
  refine List.find?_eq_some_iff_append.mpr ⟨hq, l₁, l₂, heq, fun x hx => ?_⟩
  obtain ⟨hmem, hxc⟩ := hlt x hx
  simp [hmin x hmem hxc]

/-- In an ascending list `findSome?` answers what the least member with an answer gives. -/
theorem findSome?_ascending {β : Type} {l : List Nat} (hl : l.Pairwise (· < ·)) {f : Nat → Option β} {w : Nat} {b : β}
    (hw : w ∈ l) (hf : f w = some b) (hmin : ∀ x ∈ l, x < w → f x = none) : l.findSome? f = some b := by
  obtain ⟨l₁, l₂, heq, hlt⟩ := ascending_split hl hw
  refine List.findSome?_eq_some_iff.mpr ⟨l₁, w, l₂, heq, hf, fun x hx => ?_⟩
  obtain ⟨hmem, hxw⟩ := hlt x hx
  exact hmin x hmem hxw

theorem involvedCols_ascending (k : Kind) (m : RaidzMap) (targets : List Nat) :
    (involvedCols k m targets).Pairwise (· < ·) :=
  List.pairwise_lt_range.filter _

theorem parities_ascending (k : Kind) : k.parities.Pairwise (· < ·) := by cases k <;> decide

theorem writtenCols_ascending {k : Kind} {m : RaidzMap} {targets : List Nat}
    (ht : k.isGen = false → ValidTargets k.targetCount m targets) : (writtenCols k targets).Pairwise (· < ·) := by
  unfold writtenCols
  split
  · exact parities_ascending k
  · next hg => exact (ht (Bool.eq_false_iff.mpr hg)).ascending

/-! #### What each check answers when it fails -/

/-- ADDR_RANGE reports the lowest map index that wraps (rule R45). -/
theorem checkAddrRange_some {m : RaidzMap} {c : Nat} (hc : c < m.ncols) (hw : 2 ^ 64 < (m.col c).ptr + (m.col c).len)
    (hmin : ∀ c', c' < c → (m.col c').ptr + (m.col c').len ≤ 2 ^ 64) :
    checkAddrRange m = some (reject .addrRange c) := by
  have hfind : (List.range m.ncols).find? (fun c => decide (2 ^ 64 < (m.col c).ptr + (m.col c).len)) = some c :=
    List.find?_range_eq_some.mpr ⟨decide_eq_true hw, List.mem_range.mpr hc, fun c' h => by
      simpa using hmin c' h⟩
  rw [checkAddrRange, hfind, Option.map_some]

/-- OVERLAP reports the lexicographically least pair (rules R49, R181). -/
theorem checkOverlap_some {k : Kind} {m : RaidzMap} {targets : List Nat} {w c : Nat}
    (hasc : (writtenCols k targets).Pairwise (· < ·)) (hw : w ∈ writtenCols k targets)
    (hc : c ∈ involvedCols k m targets) (hne : c ≠ w) (hover : (m.col w).overlaps (m.col c) = true)
    (hmin : ∀ w' ∈ writtenCols k targets, ∀ c' ∈ involvedCols k m targets, c' ≠ w' →
      (m.col w').overlaps (m.col c') = true → w < w' ∨ (w = w' ∧ c ≤ c')) :
    checkOverlap k m targets = some (reject .overlap (w * 2 ^ 16 + c)) := by
  refine findSome?_ascending hasc hw ?_ fun w' hw' hlt => ?_
  · rw [find?_ascending (involvedCols_ascending k m targets) hc (by simp [hne, hover]), Option.map_some]
    intro c' hc' hlt
    by_contra hbad
    simp only [Bool.not_eq_false, Bool.and_eq_true, decide_eq_true_eq] at hbad
    have := hmin w hw c' hc' hbad.1 hbad.2
    omega
  · rw [Option.map_eq_none_iff, List.find?_eq_none]
    intro c' hc' hbad
    simp only [Bool.and_eq_true, decide_eq_true_eq] at hbad
    have := hmin w' hw' c' hc' hbad.1 hbad.2
    omega

/-- UNALIGNED reports the lowest involved column whose PTR or LEN is no multiple of VBYTES (rule R44). -/
theorem checkAligned_some {bk : Nat} (hbk : bk ≠ 0) {s : State} {k : Kind} {m : RaidzMap} {targets : List Nat} {c : Nat}
    (hc : c ∈ involvedCols k m targets) (hbad : ¬(vbytes s.platform ∣ (m.col c).ptr ∧ vbytes s.platform ∣ (m.col c).len))
    (hmin : ∀ c' ∈ involvedCols k m targets, c' < c →
      vbytes s.platform ∣ (m.col c').ptr ∧ vbytes s.platform ∣ (m.col c').len) :
    checkAligned bk s k m targets = some (reject .unaligned c) := by
  simp only [Nat.dvd_iff_mod_eq_zero] at hbad hmin
  rw [checkAligned, if_neg hbk, find?_ascending (involvedCols_ascending k m targets) hc, Option.map_some]
  · exact decide_eq_true (by omega)
  · intro c' hc' hlt
    have := hmin c' hc' hlt
    exact decide_eq_false (by omega)

theorem checkAligned_code {bk : Nat} {s : State} {k : Kind} {m : RaidzMap} {targets : List Nat} {r : Reject}
    (h : checkAligned bk s k m targets = some r) : r.code = .unaligned := by
  unfold checkAligned at h
  split at h
  · cases h
  · obtain ⟨c, -, rfl⟩ := Option.map_eq_some_iff.mp h
    rfl

/-! #### The checks in their order (rule R186) -/

/-- The address range is the last check before the kind's. -/
theorem checksBeforeKind_addrRange {bk : Nat} {s : State} (hb : backendSupported s.platform bk = true)
    (hp : checkParityCount s = none) (hm : checkMap s = none) : checksBeforeKind bk s = checkAddrRange s.mapOf := by
  simp [checksBeforeKind, (checkBackend_none bk s).mpr hb, hp, hm]

theorem checksAfterKind_overlap {bk : Nat} {s : State} {k : Kind} {r : Reject}
    (h : checkOverlap k s.mapOf (s.targets k.targetCount) = some r) : checksAfterKind bk s k = some r := by
  simp [checksAfterKind, h]

theorem checksAfterKind_aligned {bk : Nat} {s : State} {k : Kind} (h : NoOverlap k s.mapOf (s.targets k.targetCount)) :
    checksAfterKind bk s k = checkAligned bk s k s.mapOf (s.targets k.targetCount) := by
  simp [checksAfterKind, (checkOverlap_none _ _ _).mpr h]

/-- A command runs only a kind whose parity columns the map has (rules R103, R109, R123, R137). -/
theorem kindFor_parities {i : Instr} {np : Nat} (hnp : 1 ≤ np) {k : Kind} (h : kindFor i np = some k) :
    ∀ p ∈ k.parities, p < np := by
  cases i with
  | gen bk =>
    simp only [kindFor] at h
    split at h
    · cases h
      simp [Kind.parities]
      omega
    · split at h <;> cases h <;> simp [Kind.parities] <;> omega
  | reconstruct bk valid tcnt =>
    simp only [kindFor] at h
    split at h
    · next hvalid =>
      obtain ⟨-, -, hbit⟩ := lookupKind_some h
      exact fun p hp => (Nat.pow_lt_pow_iff_right (by decide : 1 < 2)).mp
        (lt_of_le_of_lt (Nat.ge_two_pow_of_testBit (hbit p hp)) hvalid)
    · cases h
  | gfexp2 => cases h
  | gfmul => cases h
  | genp bk => cases h; simp [Kind.parities]; omega
  | recp bk => cases h; simp [Kind.parities]; omega
  | _ bk => simp only [kindFor] at h; split at h <;> cases h; simp [Kind.parities]; omega

/-- A generation has no targets (rule R120). -/
theorem targetCount_of_isGen {k : Kind} (hg : k.isGen = true) : k.targetCount = 0 := by
  cases k <;> simp_all [Kind.isGen, Kind.targetCount]

/-- On a valid map, with acceptable targets where it needs them, a command selects its kind. -/
theorem selectOf_of_kindFor {i : Instr} (hm : i.isMap = true) {s : State} (hv : ValidMap s.mapOf) {k : Kind}
    (hk : kindFor i s.mapOf.np = some k)
    (ht : k.isGen = false → ValidTargets k.targetCount s.mapOf (s.targets k.targetCount)) : selectOf i s = .ok k := by
  obtain ⟨hnp, -⟩ := hv.parityCount
  refine (selectOf_ok i hm s hv k).mpr ⟨hk, kindFor_parities hnp hk, fun hg => ?_, ht⟩
  rw [targetCount_of_isGen hg, targets_eq, List.take_zero]

/-- A command whose job is valid can fail the alignment check only. -/
theorem exec_unaligned {i : Instr} {k : Kind} {s : State} (hm : i.isMap = true) (hs : s.seq = .idle)
    (hb : backendSupported s.platform i.backend = true) (hk : kindFor i s.mapOf.np = some k)
    (hj : ValidJob k s.mapOf (s.targets k.targetCount)) {r : Reject}
    (h : checkAligned i.backend s k s.mapOf (s.targets k.targetCount) = some r) : exec i s = .next (s.raiseFault r) :=
  exec_reject_after hm hs hb hj.validMap (selectOf_of_kindFor hm hj.validMap hk hj.recTargets)
    ((checksAfterKind_aligned hj.noOverlap).trans h)

/-! #### The obligations -/

/-- Settles O18: the address range is checked last before the kind, lowest map index first. -/
theorem wrappingColumnFaults : Obligations.WrappingColumnFaults := by
  intro i s c hm hs hb hp hmap hc hwrap hmin
  have hcheck := (checksBeforeKind_addrRange hb hp hmap).trans (checkAddrRange_some hc hwrap hmin)
  exact ⟨_, exec_reject_before hm hs hcheck, rfl, rfl, rfl⟩

/-- Settles O23: the search goes through the written and the involved columns in ascending order. -/
theorem overlapReportsLeastPair : Obligations.OverlapReportsLeastPair := by
  intro i k s w c hm hs hb hv hk ht m written involved share hw hc hne hshare hmin
  have hcheck := checkOverlap_some (writtenCols_ascending ht) hw hc hne ((overlaps_iff _ _).mpr hshare)
    fun w' hw' c' hc' hne' hover => hmin w' hw' c' hc' hne' ((overlaps_iff _ _).mp hover)
  exact ⟨_, exec_reject_after hm hs hb hv (selectOf_of_kindFor hm hv hk ht) (checksAfterKind_overlap hcheck), rfl, rfl, rfl⟩

/-- Settles O24: only the alignment check is left, and it passes on backend 0. -/
theorem readColumnsMayOverlap : Obligations.ReadColumnsMayOverlap := by
  intro i k s t hm hs hb hk hj he
  cases hcheck : checkAligned i.backend s k s.mapOf (s.targets k.targetCount) with
  | none =>
    rw [exec_acceptable hm ⟨hs, hb, hk, hj, (checkAligned_none _ _ _ _ _).mp hcheck⟩] at he
    cases he
    exact .inl rfl
  | some r =>
    have hwide : i.backend ≠ 0 := fun h0 => by simp [checkAligned, h0] at hcheck
    rw [exec_unaligned hm hs hb hk hj hcheck] at he
    cases he
    exact .inr ⟨hwide, rfl, congrArg some (checkAligned_code hcheck)⟩

/-- Settles O25: backend 0 makes no alignment check; another one reports the lowest unaligned involved column. -/
theorem unalignedColumnFaults : Obligations.UnalignedColumnFaults := by
  intro i k s hm hs hb hk hj involved aligned
  refine ⟨fun h0 => ⟨_, exec_acceptable hm ⟨hs, hb, hk, hj, fun h => absurd h0 h⟩, rfl⟩, fun hwide c hc hbad hmin => ?_⟩
  exact ⟨_, exec_unaligned hm hs hb hk hj (checkAligned_some hwide hc hbad hmin), rfl, rfl, rfl, rfl⟩

end Sys2Proof.Machine

end

/-! ## Proofs of the encoding family: the decoder, illegal words, acceptance and what it latches -/

section

/-! ### Decoder and encoder (rules R60, R61, R65, R68) -/

namespace Sys2Proof

/-- A field of `len` bits is below `2^len`. -/
theorem bitField_lt (w : Word) (lo len : Nat) : bitField w lo len < 2 ^ len :=
  Nat.mod_lt _ (Nat.two_pow_pos len)

theorem wellFormed_reconstruct {bk valid tcnt : Nat} :
    (Instr.reconstruct bk valid tcnt).wellFormed = true ↔ bk < 16 ∧ valid < 8 ∧ tcnt < 4 := by
  simp [Instr.wellFormed, backendFits, validFits, countFits, and_assoc]

/-! #### `decode`, an equation per case -/

theorem decode_of_reservedBits {w : Word} (h : bitField w 11 1 ≠ 0 ∨ bitField w 14 50 ≠ 0) :
    decode w = .error .reservedBits := if_pos h

theorem decode_of_rec {w : Word} (h11 : bitField w 11 1 = 0) (h14 : bitField w 14 50 = 0) (h5 : bitField w 0 4 = 5) :
    decode w = .ok (.reconstruct (bitField w 4 4) (bitField w 8 3) (bitField w 12 2)) := by
  simp [decode, h11, h14, h5]

theorem decode_of_strayOperand {w : Word} (h11 : bitField w 11 1 = 0) (h14 : bitField w 14 50 = 0)
    (h5 : bitField w 0 4 ≠ 5) (h : bitField w 8 3 ≠ 0 ∨ bitField w 12 2 ≠ 0) : decode w = .error .strayOperand := by
  simp only [decode, h11, h14, ne_eq, not_true_eq_false, or_self, if_false, if_neg h5]
  exact if_pos h

theorem decode_of_opcode {w : Word} (h11 : bitField w 11 1 = 0) (h14 : bitField w 14 50 = 0)
    (h5 : bitField w 0 4 ≠ 5) (h8 : bitField w 8 3 = 0) (h12 : bitField w 12 2 = 0) :
    decode w = decodeOpcode (bitField w 0 4) (bitField w 4 4) := by
  simp [decode, h11, h14, h5, h8, h12]

/-- The four ways of the decoder. -/
theorem decode_cases (w : Word) :
    ((bitField w 11 1 ≠ 0 ∨ bitField w 14 50 ≠ 0) ∧ decode w = .error .reservedBits) ∨
    (bitField w 11 1 = 0 ∧ bitField w 14 50 = 0 ∧
      ((bitField w 0 4 = 5 ∧ decode w = .ok (.reconstruct (bitField w 4 4) (bitField w 8 3) (bitField w 12 2))) ∨
      (bitField w 0 4 ≠ 5 ∧ (bitField w 8 3 ≠ 0 ∨ bitField w 12 2 ≠ 0) ∧ decode w = .error .strayOperand) ∨
      (bitField w 0 4 ≠ 5 ∧ bitField w 8 3 = 0 ∧ bitField w 12 2 = 0 ∧
        decode w = decodeOpcode (bitField w 0 4) (bitField w 4 4)))) := by
  by_cases hres : bitField w 11 1 ≠ 0 ∨ bitField w 14 50 ≠ 0
  · exact .inl ⟨hres, decode_of_reservedBits hres⟩
  obtain ⟨h11, h14⟩ : bitField w 11 1 = 0 ∧ bitField w 14 50 = 0 := by omega
  refine .inr ⟨h11, h14, ?_⟩
  by_cases h5 : bitField w 0 4 = 5
  · exact .inl ⟨h5, decode_of_rec h11 h14 h5⟩
  by_cases hstray : bitField w 8 3 ≠ 0 ∨ bitField w 12 2 ≠ 0
  · exact .inr (.inl ⟨h5, hstray, decode_of_strayOperand h11 h14 h5 hstray⟩)
  obtain ⟨h8, h12⟩ : bitField w 8 3 = 0 ∧ bitField w 12 2 = 0 := by omega
  exact .inr (.inr ⟨h5, h8, h12, decode_of_opcode h11 h14 h5 h8 h12⟩)

/-- Which opcodes are commands, of those without VALID and TCNT (rules R61, R65). -/
theorem decodeOpcode_error_iff {op : Nat} (hop : op < 16) (h5 : op ≠ 5) (bk : Nat) :
    (∃ e, decodeOpcode op bk = .error e) ↔ op = 0 ∨ op = 15 ∨ ((op = 13 ∨ op = 14) ∧ bk ≠ 0) := by
  unfold decodeOpcode
  split
  case h_12 | h_13 => by_cases hb : bk = 0 <;> simp [hb]
  case h_14 => exact iff_of_true ⟨_, rfl⟩ (by grind)
  all_goals simp

/-- The opcode and BKND give the command's word, and BKND is its only operand (rules R60, R61). -/
theorem encode_of_decodeOpcode {op bk : Nat} {i : Instr} (hbk : bk < 16) (h : decodeOpcode op bk = .ok i) :
    encode i = commandWord op bk 0 0 ∧ i.wellFormed = true := by
  unfold decodeOpcode at h
  split at h
  case h_12 | h_13 =>
    split at h
    · next hb => cases h; exact ⟨by rw [hb]; rfl, rfl⟩
    · cases h
  case h_14 => cases h
  all_goals cases h; exact ⟨rfl, decide_eq_true hbk⟩

/-- Rule R65: which words are illegal. -/
theorem decode_error_iff (w : Word) : (∃ e, decode w = .error e) ↔
    (bitField w 0 4 = 0 ∨ bitField w 0 4 = 15 ∨ bitField w 14 50 ≠ 0 ∨ bitField w 11 1 ≠ 0 ∨
      (bitField w 0 4 ≠ 5 ∧ (bitField w 8 3 ≠ 0 ∨ bitField w 12 2 ≠ 0)) ∨
      ((bitField w 0 4 = 13 ∨ bitField w 0 4 = 14) ∧ bitField w 4 4 ≠ 0)) := by
  rcases decode_cases w with ⟨hres, hd⟩ | ⟨h11, h14, ⟨h5, hd⟩ | ⟨h5, hstray, hd⟩ | ⟨h5, h8, h12, hd⟩⟩ <;> rw [hd]
  · exact iff_of_true ⟨_, rfl⟩ (by omega)
  · exact iff_of_false (by simp) (by omega)
  · exact iff_of_true ⟨_, rfl⟩ (by omega)
  · rw [decodeOpcode_error_iff (bitField_lt w 0 4) h5]
    omega

/-! #### The fields of a command word -/

/-- A command word as a number: its fields are digits, and nothing is lost to 64 bits. -/
theorem commandWord_toNat {op bk valid tcnt : Nat} (hop : op < 16) (hbk : bk < 16) (hvalid : valid < 8)
    (htcnt : tcnt < 4) : (commandWord op bk valid tcnt).toNat = op + 16 * (bk + 16 * (valid + 16 * tcnt)) := by
  rw [commandWord, BitVec.toNat_ofNat]
  omega

/-- Each field reads back, and the reserved bits are 0. -/
theorem bitField_commandWord {op bk valid tcnt : Nat} (hop : op < 16) (hbk : bk < 16) (hvalid : valid < 8)
    (htcnt : tcnt < 4) : let w := commandWord op bk valid tcnt
    bitField w 0 4 = op ∧ bitField w 4 4 = bk ∧ bitField w 8 3 = valid ∧ bitField w 12 2 = tcnt ∧
      bitField w 11 1 = 0 ∧ bitField w 14 50 = 0 := by
  simp only [bitField, commandWord_toNat hop hbk hvalid htcnt]
  omega

/-- The word of a REC decodes to it. -/
theorem decode_recWord {bk valid tcnt : Nat} (hbk : bk < 16) (hvalid : valid < 8) (htcnt : tcnt < 4) :
    decode (commandWord 5 bk valid tcnt) = .ok (.reconstruct bk valid tcnt) := by
  obtain ⟨h0, h4, h8, h12, h11, h14⟩ := bitField_commandWord (op := 5) (by decide) hbk hvalid htcnt
  rw [decode_of_rec h11 h14 h0, h4, h8, h12]

/-- The word of a command without VALID and TCNT decodes by its opcode. -/
theorem decode_opcodeWord {op bk : Nat} (hop : op < 16) (h5 : op ≠ 5) (hbk : bk < 16) :
    decode (commandWord op bk 0 0) = decodeOpcode op bk := by
  obtain ⟨h0, h4, h8, h12, h11, h14⟩ := bitField_commandWord (valid := 0) (tcnt := 0) hop hbk (by decide) (by decide)
  rw [decode_of_opcode h11 h14 (by rwa [h0]) h8 h12, h0, h4]

/-- A word whose reserved bits are 0 is the command word of its fields. -/
theorem commandWord_bitFields {w : Word} (h11 : bitField w 11 1 = 0) (h14 : bitField w 14 50 = 0) :
    commandWord (bitField w 0 4) (bitField w 4 4) (bitField w 8 3) (bitField w 12 2) = w := by
  apply BitVec.eq_of_toNat_eq
  rw [commandWord_toNat (bitField_lt w 0 4) (bitField_lt w 4 4) (bitField_lt w 8 3) (bitField_lt w 12 2)]
  have hw := w.isLt
  unfold bitField at *
  omega

/-! #### The obligations -/

/-- Settles O1: every command is the command word of its fields, of which the decoder reads each one back. -/
theorem decodeInvertsEncode : Obligations.DecodeInvertsEncode := by
  intro i hi
  cases i with
  | reconstruct bk valid tcnt =>
    obtain ⟨hbk, hvalid, htcnt⟩ := wellFormed_reconstruct.mp hi
    exact decode_recWord hbk hvalid htcnt
  | gfexp2 => exact decode_opcodeWord (by decide) (by decide) (by decide)
  | gfmul => exact decode_opcodeWord (by decide) (by decide) (by decide)
  | _ bk => exact decode_opcodeWord (by decide) (by decide) (of_decide_eq_true hi)

/-- Settles O2: a word that decodes has no reserved bit set, so that it is the command word of its fields. -/
theorem encodeInvertsDecode : Obligations.EncodeInvertsDecode := by
  intro w i h
  rcases decode_cases w with ⟨-, hd⟩ | ⟨h11, h14, ⟨h5, hd⟩ | ⟨-, -, hd⟩ | ⟨-, h8, h12, hd⟩⟩ <;> rw [hd] at h
  · cases h
  · cases h
    refine ⟨?_, wellFormed_reconstruct.mpr ⟨bitField_lt w 4 4, bitField_lt w 8 3, bitField_lt w 12 2⟩⟩
    calc encode (.reconstruct (bitField w 4 4) (bitField w 8 3) (bitField w 12 2))
        = commandWord (bitField w 0 4) (bitField w 4 4) (bitField w 8 3) (bitField w 12 2) := by rw [h5]; rfl
      _ = w := commandWord_bitFields h11 h14
  · cases h
  · obtain ⟨hencode, hfits⟩ := encode_of_decodeOpcode (bitField_lt w 4 4) h
    refine ⟨?_, hfits⟩
    calc encode i = commandWord (bitField w 0 4) (bitField w 4 4) (bitField w 8 3) (bitField w 12 2) := by
          rw [hencode, h8, h12]
      _ = w := commandWord_bitFields h11 h14

end Sys2Proof

end
section

/-! ### Issue: illegal words, acceptance and the latch (rules R62, R63, R65, R186) -/

namespace Sys2Proof.Machine

/-- A CMD write in IDLE issues the written word. -/
theorem step_issueWord {s : State} {w : Word} {rest : List HostAction} (hs : s.seq = .idle) (hh : s.held = [])
    (hi : s.inputs = .write 3 w :: rest) : step s = issueWord w (s.withInputs rest) :=
  (step_input (by simp [hs]) hh hi).trans (hostWrite_cmd_idle (r := 3) rfl w hs)

theorem issueWord_of_error {w : Word} {e : DecodeError} (h : decode w = .error e) (s : State) :
    issueWord w s = .next (s.raiseFault ⟨.illegalCmd, w⟩) := by
  simp [issueWord, h]

/-- A REC without targets is BAD_TARGET with information 3, whatever the targets and the mask (rule R121). -/
theorem selectRec_noTargets (valid : Nat) (s : State) : selectRec valid 0 s = .error (reject .badTarget 3) := by
  simp [selectRec, checkTargets]

/-- The backend is the first check of a map command (rule R186). -/
theorem checksBeforeKind_backend {bk : Nat} {s : State} (h : backendSupported s.platform bk = false) :
    checksBeforeKind bk s = some (reject .badBackend bk) := by
  simp [checksBeforeKind, checkBackend, h]

/-- What acceptance does to the state (rule R62). -/
theorem accepted_accept (s : State) (l : Latch) : Accepted l.kind l.bk s (s.accept l) where
  busy := rfl
  done := rfl
  kind := rfl
  used := rfl
  vctx := rfl
  fcode := rfl
  finfo := rfl
  gfr := rfl
  mem := rfl
  descriptor := sameDescriptor_accept s l
  hostSide := ⟨rfl, rfl, rfl⟩

/-- A map command that became BUSY passed every check. -/
theorem acceptable_of_exec_busy {i : Instr} (hm : i.isMap = true) {s t : State} (hs : s.seq = .idle)
    (he : exec i s = .next t) (ht : t.seq = .busy) : ∃ k, Acceptable i k s := by
  rw [exec_idle_map i hm s hs, Host.Outcome.next.injEq] at he
  subst he
  rcases issueMap_cases i i.backend (selectOf i) s with ⟨r, hr⟩ | ⟨k, hbefore, hselect, hafter, -⟩
  · rw [hr, State.raiseFault_seq] at ht
    cases ht
  · obtain ⟨hb, hv⟩ := (checksBeforeKind_none _ _).mp hbefore
    obtain ⟨hkind, hpar, hgen, hrec⟩ := (selectOf_ok i hm s hv k).mp hselect
    obtain ⟨hover, halign⟩ := (checksAfterKind_none _ _ _).mp hafter
    exact ⟨k, hs, hb, hkind, ⟨hv, hpar, hgen, hrec, hover⟩, halign⟩

/-- A command that became BUSY, a GF command too, latched itself with its own backend and the registers as they stood. -/
theorem exec_busy_latch {i : Instr} {s t : State} (hs : s.seq = .idle) (he : exec i s = .next t) (ht : t.seq = .busy) :
    ∃ k, t = s.accept (s.latch i i.backend k) := by
  rcases exec_idle_cases i hs he with ⟨r, rfl⟩ | ⟨bk, k, rfl⟩
  · cases ht
  · rcases exec_idle_validLatch i hs he with ⟨r, hr⟩ | ⟨l, hl, heq⟩
    · rw [hr] at ht
      cases ht
    · obtain rfl : s.latch i bk k = l := Option.some.inj (congrArg State.latched heq)
      have hbk : bk = i.backend := hl.backend
      exact ⟨k, by rw [hbk]⟩

/-! #### The obligations -/

/-- Settles O4: the decoder's rejections are those of rule R65, and every one of them is ILLEGAL_CMD; a REC with TCNT = 0
decodes and fails the choice of its kind. -/
theorem illegalCommands : Obligations.IllegalCommands := by
  refine ⟨decode_error_iff, ?_, fun bk valid hbk hvalid => ⟨?_, fun s hs hb hv => ?_⟩, ⟨.reservedOpcode, by decide⟩⟩
  · rintro w s rest ⟨e, hd⟩ hs hh hi
    exact ⟨_, (step_issueWord hs hh hi).trans (issueWord_of_error hd _), rfl, rfl, rfl⟩
  · exact decodeInvertsEncode _ (wellFormed_reconstruct.mpr ⟨hbk, hvalid, by decide⟩)
  · exact ⟨_, exec_reject_kind rfl hs hb hv (selectRec_noTargets valid s), rfl, rfl, rfl⟩

/-- Settles O13: `exec_acceptable` one way, the checks read back the other. -/
theorem acceptedExactlyWhenAcceptable : Obligations.AcceptedExactlyWhenAcceptable := by
  intro i s hm hs
  exact ⟨fun k h => ⟨_, exec_acceptable hm h, accepted_accept s (s.latch i i.backend k), rfl⟩,
    fun t => acceptable_of_exec_busy hm hs⟩

/-- Settles O59: acceptance is the only way from IDLE to BUSY. -/
theorem acceptanceLatchesRegisters : Obligations.AcceptanceLatchesRegisters := by
  intro i s t hs he ht
  obtain ⟨k, rfl⟩ := exec_busy_latch hs he ht
  exact ⟨sameDescriptor_accept s _, k, rfl, rfl⟩

/-- Settles O15: the backend is looked at before the map. -/
theorem unsupportedBackendFaults : Obligations.UnsupportedBackendFaults := by
  intro i s hm hs hb
  exact ⟨_, exec_reject_before hm hs (checksBeforeKind_backend hb), rfl, rfl, rfl⟩

end Sys2Proof.Machine

end

/-! ## Proofs of the GF arithmetic family: the laws of the field, its product as a product of polynomials, the coefficients of
Q and R, the commands GFEXP2 and GFMUL -/

section

/-! ### The field by exponents of 2 (rules R85 to R89)

Every nonzero byte is a power `twoPow e`, and `exp2` and `gfmul` add exponents: the laws of the field are those of the
exponents modulo 255. -/

namespace Sys2Proof.Machine

/-! #### Powers of 2 -/

/-- Exponents count modulo 255. -/
theorem twoPow_congr {e f : Nat} (h : e % 255 = f % 255) : twoPow e = twoPow f := congrArg pow2 h

theorem twoPow_of_lt {e : Nat} (h : e < 255) : twoPow e = pow2 e := congrArg pow2 (Nat.mod_eq_of_lt h)

/-- Wherever the table is defined, its entry is the power. -/
theorem pow2_eq_twoPow {e : Nat} (h : e ≤ 510) : pow2 e = twoPow e := pow2_mod_255 h

theorem twoPow_ne_zero (e : Nat) : twoPow e ≠ 0 := (log2_pow2 (Nat.mod_lt e (by decide))).1

@[simp] theorem log2_twoPow (e : Nat) : log2 (twoPow e) = e % 255 := (log2_pow2 (Nat.mod_lt e (by decide))).2

theorem twoPow_log2 {a : Byte} (h : a ≠ 0) : twoPow (log2 a) = a := by
  rw [twoPow_of_lt (log2_lt a h), pow2_log2 h]

theorem twoPow_inj {e f : Nat} : twoPow e = twoPow f ↔ e % 255 = f % 255 :=
  ⟨fun h => by rw [← log2_twoPow e, h, log2_twoPow f], twoPow_congr⟩

/-- The powers below 255 are distinct, and so are their squares, because 255 is odd. -/
theorem twoPow_ne_of_ne {e f : Nat} (he : e < 255) (hf : f < 255) (h : e ≠ f) :
    twoPow e ≠ twoPow f ∧ twoPow (2 * e) ≠ twoPow (2 * f) :=
  ⟨mt twoPow_inj.mp (by omega), mt twoPow_inj.mp (by omega)⟩

theorem twoPow_zero : twoPow 0 = 1 := pow2_zero

theorem twoPow_one : twoPow 1 = 2 := pow2_succ 0 (by decide)

theorem twoPow_succ (e : Nat) : twoPow (e + 1) = mul2 (twoPow e) := by
  calc twoPow (e + 1) = twoPow (e % 255 + 1) := twoPow_congr (by omega)
    _ = pow2 (e % 255 + 1) := (pow2_eq_twoPow (by omega)).symm
    _ = mul2 (twoPow e) := pow2_succ _ (by omega)

/-- Every byte is 0 or a power of 2: the case split of the laws below. -/
theorem zero_or_twoPow (a : Byte) : a = 0 ∨ ∃ e, twoPow e = a :=
  (eq_or_ne a 0).imp_right fun h => ⟨log2 a, twoPow_log2 h⟩

/-! #### The functions on powers of 2 -/

theorem exp2_twoPow (e : Nat) {f : Nat} (hf : f ≤ 255) : exp2 (twoPow e) f = twoPow (e + f) := by
  rw [exp2_of_ne (twoPow_ne_zero e), log2_twoPow, pow2_eq_twoPow (by omega)]
  exact twoPow_congr (by omega)

theorem gfmul_twoPow (e f : Nat) : gfmul (twoPow e) (twoPow f) = twoPow (e + f) := by
  rw [gfmul_of_ne (twoPow_ne_zero e) (twoPow_ne_zero f), log2_twoPow, log2_twoPow, pow2_eq_twoPow (by omega)]
  exact twoPow_congr (by omega)

theorem gfinv_eq_twoPow (a : Byte) : gfinv a = twoPow (255 - log2 a) := pow2_eq_twoPow (by omega)

/-! #### The laws of the product -/

theorem gfmul_comm (a b : Byte) : gfmul a b = gfmul b a := by
  obtain rfl | ⟨e, rfl⟩ := zero_or_twoPow a
  · rw [gfmul_zero_left, gfmul_zero_right]
  obtain rfl | ⟨f, rfl⟩ := zero_or_twoPow b
  · rw [gfmul_zero_left, gfmul_zero_right]
  rw [gfmul_twoPow, gfmul_twoPow, Nat.add_comm]

theorem gfmul_assoc (a b c : Byte) : gfmul (gfmul a b) c = gfmul a (gfmul b c) := by
  obtain rfl | ⟨e, rfl⟩ := zero_or_twoPow a
  · simp only [gfmul_zero_left]
  obtain rfl | ⟨f, rfl⟩ := zero_or_twoPow b
  · simp only [gfmul_zero_left, gfmul_zero_right]
  obtain rfl | ⟨g, rfl⟩ := zero_or_twoPow c
  · simp only [gfmul_zero_right]
  simp only [gfmul_twoPow, Nat.add_assoc]

@[simp] theorem gfmul_one_left (a : Byte) : gfmul 1 a = a := by
  obtain rfl | ⟨e, rfl⟩ := zero_or_twoPow a
  · exact gfmul_zero_right 1
  rw [← twoPow_zero, gfmul_twoPow, Nat.zero_add]

@[simp] theorem gfmul_one_right (a : Byte) : gfmul a 1 = a := by rw [gfmul_comm, gfmul_one_left]

/-- A factor 2 is a doubling of the product. -/
theorem gfmul_twoPow_succ (e : Nat) (a : Byte) : gfmul (twoPow (e + 1)) a = mul2 (gfmul (twoPow e) a) := by
  obtain rfl | ⟨f, rfl⟩ := zero_or_twoPow a
  · simp only [gfmul_zero_right, mul2_zero]
  rw [gfmul_twoPow, gfmul_twoPow, Nat.add_right_comm, twoPow_succ]

theorem gfmul_two_right (a : Byte) : gfmul a 2 = mul2 a := by
  rw [gfmul_comm, ← twoPow_one, gfmul_twoPow_succ, twoPow_zero, gfmul_one_left]

/-- The product distributes over `xor`: by a power of 2 it is a repeated doubling, which is additive. -/
theorem gfmul_xor_right (a b c : Byte) : gfmul a (b ^^^ c) = gfmul a b ^^^ gfmul a c := by
  obtain rfl | ⟨e, rfl⟩ := zero_or_twoPow a
  · simp only [gfmul_zero_left]
    rfl
  induction e with
  | zero => simp only [twoPow_zero, gfmul_one_left]
  | succ e ih => simp only [gfmul_twoPow_succ, ih, mul2_xor]

theorem gfmul_gfinv {a : Byte} (h : a ≠ 0) : gfmul a (gfinv a) = 1 := by
  have hlt := log2_lt a h
  calc gfmul a (gfinv a) = gfmul (twoPow (log2 a)) (twoPow (255 - log2 a)) := by rw [twoPow_log2 h, gfinv_eq_twoPow]
    _ = twoPow (log2 a + (255 - log2 a)) := gfmul_twoPow _ _
    _ = twoPow 0 := twoPow_congr (by omega)
    _ = 1 := twoPow_zero

/-- An inverse is unique. -/
theorem eq_gfinv_of_gfmul {a c : Byte} (h : a ≠ 0) (hc : gfmul a c = 1) : c = gfinv a := by
  calc c = gfmul (gfmul (gfinv a) a) c := by rw [gfmul_comm (gfinv a), gfmul_gfinv h, gfmul_one_left]
    _ = gfinv a := by rw [gfmul_assoc, hc, gfmul_one_right]

/-! #### The laws of `exp2` -/

/-- Exponents add (rule R89). -/
theorem exp2_exp2 (a : Byte) {e f : Nat} (he : e ≤ 255) (hf : f ≤ 255) :
    exp2 (exp2 a e) f = exp2 a ((e + f) % 255) := by
  obtain rfl | ⟨g, rfl⟩ := zero_or_twoPow a
  · simp only [exp2_zero_left]
  rw [exp2_twoPow g he, exp2_twoPow _ hf, exp2_twoPow g (by omega)]
  exact twoPow_congr (by omega)

/-- The exponents 0 and 255 change nothing, because `2^255` is 1. -/
theorem exp2_of_mod_eq_zero (a : Byte) {e : Nat} (he : e ≤ 255) (h : e % 255 = 0) : exp2 a e = a := by
  obtain rfl | ⟨f, rfl⟩ := zero_or_twoPow a
  · exact exp2_zero_left e
  rw [exp2_twoPow f he]
  exact twoPow_congr (by omega)

@[simp] theorem exp2_zero_right (a : Byte) : exp2 a 0 = a := exp2_of_mod_eq_zero a (by decide) (by decide)

theorem exp2_255 (a : Byte) : exp2 a 255 = a := exp2_of_mod_eq_zero a (by decide) (by decide)

/-! #### The obligations -/

/-- Settles O8: commutativity, associativity and inverses are those of the exponents; distributivity is that of doubling. -/
theorem fieldAxioms : Obligations.FieldAxioms := by
  refine ⟨gfmul_comm, gfmul_assoc, gfmul_xor_right, fun a => ?_, fun a ha => ?_, fun a ha => ?_⟩
  · exact ⟨gfmul_one_left a, gfmul_zero_left a, BitVec.xor_zero, BitVec.xor_self⟩
  · exact ⟨gfinv a, gfmul_gfinv ha, fun c => eq_gfinv_of_gfmul ha⟩
  · refine ⟨log2 a, ⟨log2_lt a ha, twoPow_log2 ha⟩, ?_⟩
    rintro e ⟨he, rfl⟩
    rw [log2_twoPow, Nat.mod_eq_of_lt he]

/-- Settles O9: the involution is the addition of exponents to a multiple of 255. -/
theorem fieldLaws : Obligations.FieldLaws := by
  refine ⟨fun a e ha he => ?_, fun e _ => exp2_zero_left e, fun a => ⟨exp2_zero_right a, exp2_255 a⟩,
    fun a e f he hf => exp2_exp2 a he hf, fun a => ⟨gfmul_one_right a, gfmul_two_right a⟩, fun a => gfmul_gfinv⟩
  rw [exp2_exp2 a he (by omega)]
  exact exp2_of_mod_eq_zero a (by omega) (by omega)

/-- Settles O10: the exponents `n - 1 - i` are distinct and below 255. -/
theorem columnCoefficients : Obligations.ColumnCoefficients := by
  intro n hpos hmax
  refine ⟨fun i hi => ⟨twoPow_of_lt (by omega), rfl⟩, ?_, ?_, fun i j hi hj hij => ?_,
    fun i hi => ⟨twoPow_ne_zero _, twoPow_ne_zero _, ?_⟩, fun np i hi => twoPow_congr (by omega), ?_⟩
  · exact (twoPow_congr (by omega)).trans twoPow_zero
  · exact (twoPow_congr (by omega)).trans twoPow_zero
  · exact twoPow_ne_of_ne (by omega) (by omega) (by omega)
  · show twoPow (2 * (n - 1 - i)) = gfmul (twoPow (n - 1 - i)) (twoPow (n - 1 - i))
    rw [gfmul_twoPow, Nat.two_mul]
  · rintro m mem o rfl
    simp only [gfmul_one_left]
    rfl

end Sys2Proof.Machine

end
section

/-! ### The product as a product of polynomials (rule R92)

`gfmul` and `polyMul` are both additive in each argument, so the 64 products of single bits decide that they are equal. -/

namespace Sys2Proof.Machine

/-- A fold whose step is additive is additive. -/
theorem foldl_xor {α : Type} {w : Nat} {F G H : BitVec w → α → BitVec w}
    (h : ∀ x y i, F (x ^^^ y) i = G x i ^^^ H y i) (l : List α) (x y : BitVec w) :
    l.foldl F (x ^^^ y) = l.foldl G x ^^^ l.foldl H y := by
  induction l generalizing x y with
  | nil => rfl
  | cons i rest ih => rw [List.foldl_cons, h, ih]; rfl

/-- A term added under a condition, where the conditions add: the term added twice is gone. -/
theorem ite_xor {w : Nat} (p q : Bool) (x y t : BitVec w) :
    (if p ^^ q then x ^^^ y ^^^ t else x ^^^ y) = (if p then x ^^^ t else x) ^^^ (if q then y ^^^ t else y) := by
  cases p <;> cases q
  · rfl
  · exact BitVec.xor_assoc x y t
  · show x ^^^ y ^^^ t = x ^^^ t ^^^ y
    ac_rfl
  · show x ^^^ y = x ^^^ t ^^^ (y ^^^ t)
    rw [BitVec.xor_comm y t, BitVec.xor_assoc, ← BitVec.xor_assoc t t, BitVec.xor_self, BitVec.zero_xor]

theorem polyProduct_xor_left (a a' b : Byte) : polyProduct (a ^^^ a') b = polyProduct a b ^^^ polyProduct a' b := by
  refine foldl_xor (fun x y i => ?_) (List.range 8) 0 0
  cases b.getLsbD i
  · rfl
  · simp only [if_true, BitVec.setWidth_xor, BitVec.shiftLeft_xor_distrib]
    ac_rfl

theorem polyProduct_xor_right (a b b' : Byte) : polyProduct a (b ^^^ b') = polyProduct a b ^^^ polyProduct a b' := by
  refine foldl_xor (fun x y i => ?_) (List.range 8) 0 0
  rw [BitVec.getLsbD_xor]
  exact ite_xor ..

theorem reduceAt_xor (x y : BitVec 16) (i : Nat) : reduceAt (x ^^^ y) i = reduceAt x i ^^^ reduceAt y i := by
  unfold reduceAt
  rw [BitVec.getLsbD_xor]
  exact ite_xor ..

theorem polyMul_xor_left (a a' b : Byte) : polyMul (a ^^^ a') b = polyMul a b ^^^ polyMul a' b := by
  unfold polyMul
  rw [polyProduct_xor_left, foldl_xor reduceAt_xor, BitVec.setWidth_xor]

theorem polyMul_xor_right (a b b' : Byte) : polyMul a (b ^^^ b') = polyMul a b ^^^ polyMul a b' := by
  unfold polyMul
  rw [polyProduct_xor_right, foldl_xor reduceAt_xor, BitVec.setWidth_xor]

theorem gfmul_xor_left (a a' b : Byte) : gfmul (a ^^^ a') b = gfmul a b ^^^ gfmul a' b := by
  simp only [gfmul_comm _ b, gfmul_xor_right]

/-- Bit `i` of a byte, at its place. -/
def bitPart (a : Byte) (i : Nat) : Byte := if a.getLsbD i then 1#8 <<< i else 0

/-- A byte is the sum of its bits. -/
theorem xorOver_bitPart (a : Byte) : xorOver (bitPart a) (List.range 8) = a := by
  revert a
  decide +kernel

/-- Additive functions that agree on the eight single bits are equal. -/
theorem eq_of_xor_additive {f g : Byte → Byte} (hf : ∀ a b, f (a ^^^ b) = f a ^^^ f b)
    (hg : ∀ a b, g (a ^^^ b) = g a ^^^ g b) (h : ∀ i, i < 8 → f (1#8 <<< i) = g (1#8 <<< i)) (a : Byte) : f a = g a := by
  have zero {k : Byte → Byte} (hk : ∀ a b, k (a ^^^ b) = k a ^^^ k b) : k 0 = 0 := by
    simpa using hk 0 0
  have sum (l : List Nat) (hl : ∀ i ∈ l, i < 8) : f (xorOver (bitPart a) l) = g (xorOver (bitPart a) l) := by
    induction l with
    | nil => rw [xorOver_nil, zero hf, zero hg]
    | cons i rest ih =>
      have hbit : f (bitPart a i) = g (bitPart a i) := by
        unfold bitPart
        split
        · exact h i (hl i (by simp))
        · rw [zero hf, zero hg]
      rw [xorOver_cons, hf, hg, hbit, ih fun j hj => hl j (by simp [hj])]
  simpa only [xorOver_bitPart] using sum (List.range 8) fun i => List.mem_range.mp

/-- Settles O7: bit by bit in `b`, then bit by bit in `a`. -/
theorem productIsPolynomialProduct : Obligations.ProductIsPolynomialProduct := by
  have bits : ∀ i j : Fin 8, gfmul (1#8 <<< i.val) (1#8 <<< j.val) = polyMul (1#8 <<< i.val) (1#8 <<< j.val) := by
    decide +kernel
  intro a b
  refine eq_of_xor_additive (gfmul_xor_right a) (polyMul_xor_right a) (fun j hj => ?_) b
  exact eq_of_xor_additive (f := (gfmul · _)) (g := (polyMul · _)) (fun x y => gfmul_xor_left x y _) (fun x y => polyMul_xor_left x y _)
    (fun i hi => bits ⟨i, hi⟩ ⟨j, hj⟩) a

end Sys2Proof.Machine

end
section

/-! ### The commands GFEXP2 and GFMUL (rules R80, R84) -/

namespace Sys2Proof.Machine

/-- A GF opcode has one legal word. -/
theorem decode_gfWord {op : Nat} {i : Instr} (hop : op = 13 ∨ op = 14) (hd : decode (commandWord op 0 0 0) = .ok i)
    {w : Word} (h : bitField w 0 4 = op) :
    (decode w = .ok i ∧ w = commandWord op 0 0 0) ∨ (w ≠ commandWord op 0 0 0 ∧ ∃ e, decode w = .error e) := by
  by_cases hw : w = commandWord op 0 0 0
  · exact .inl ⟨hw ▸ hd, hw⟩
  refine .inr ⟨hw, ?_⟩
  by_contra hlegal
  rw [decode_error_iff] at hlegal
  push Not at hlegal
  obtain ⟨-, -, h14, h11, hoperands, hbackend⟩ := hlegal
  obtain ⟨h8, h12⟩ := hoperands (by omega)
  have hfields := commandWord_bitFields h11 h14
  rw [h, hbackend (by omega), h8, h12] at hfields
  exact hw hfields.symm

/-- BAD_OPERAND: GFA is looked at first. -/
theorem checkGfOperands_some {s : State} (h : 255 < s.gfa.toNat ∨ 255 < s.gfb.toNat) :
    checkGfOperands s = some ⟨.badOperand, if 255 < s.gfa.toNat then 0 else 1⟩ := by
  unfold checkGfOperands
  split
  · rfl
  · next ha => exact if_pos (h.resolve_left ha)

theorem checkGfOperands_none {s : State} (ha : s.gfa.toNat ≤ 255) (hb : s.gfb.toNat ≤ 255) :
    checkGfOperands s = none := by
  rw [checkGfOperands, if_neg (by omega), if_neg (by omega)]

/-- The end of an accepted command (rule R66). -/
theorem completed_finish (s : State) (l : Latch) (g : Word) (m : Memory) :
    Completed l.kind s ((s.accept l).finish g m) where
  idle := rfl
  done := rfl
  kind := rfl
  used := rfl
  vctx := rfl
  latched := rfl
  fcode := rfl
  finfo := rfl
  descriptor := (sameDescriptor_accept s l).trans (sameDescriptor_finish _ g m)
  hostSide := ⟨rfl, rfl, rfl⟩

section
variable (i : Instr) (k : Kind) (op : Byte → Byte → Byte) {s : State} (hs : s.seq = .idle)
include hs

/-- A GF command whose operand is no byte faults, and GFR and memory keep their contents. -/
theorem gfCommand_badOperand (h : 255 < s.gfa.toNat ∨ 255 < s.gfb.toNat) :
    ∃ t, gfCommand i k op s = .next t ∧ t.seq = .fault ∧ t.fcode = some .badOperand ∧
      t.finfo = (if 255 < s.gfa.toNat then 0 else 1) ∧ t.gfr = s.gfr ∧ t.mem = s.mem := by
  refine ⟨s.raiseFault ⟨.badOperand, if 255 < s.gfa.toNat then 0 else 1⟩, ?_, rfl, rfl, rfl, rfl, rfl⟩
  rw [gfCommand_idle hs, issueGf, checkGfOperands_some h]

/-- The two transitions of a GF command on bytes. -/
theorem gfCommand_ends (ha : s.gfa.toNat ≤ 255) (hb : s.gfb.toNat ≤ 255) :
    ∃ s₁ s₂, gfCommand i k op s = .next s₁ ∧ Accepted k 0 s s₁ ∧ gfCommand i k op s₁ = .next s₂ ∧ Completed k s s₂ ∧
      s₂.gfr = (op (s.gfa.setWidth 8) (s.gfb.setWidth 8)).setWidth 64 ∧ s₂.mem = s.mem := by
  have hissue : issueGf i k s = s.accept (s.latch i 0 k) := by rw [issueGf, checkGfOperands_none ha hb]
  refine ⟨_, _, (gfCommand_idle hs).trans (congrArg _ hissue), accepted_accept s (s.latch i 0 k),
    (gfCommand_busy rfl).trans (congrArg _ (endGf_some op rfl)), completed_finish s (s.latch i 0 k) _ _, rfl, rfl⟩

end

/-- Settles O11: the GF command with the operation `exp2`, whose exponent GFB is a byte. -/
theorem gfexp2Command : Obligations.Gfexp2Command := by
  refine ⟨fun w => decode_gfWord (.inl rfl) (by decide), fun s => gfCommand_badOperand _ _ _, fun s hs ha hb => ?_,
    fun e _ => exp2_zero_left e, fun a => ⟨exp2_zero_right a, exp2_255 a⟩, by decide +kernel, exp2_255 _, by decide +kernel⟩
  have hexp : (s.gfb.setWidth 8).toNat = s.gfb.toNat := by
    rw [BitVec.toNat_setWidth]
    omega
  rw [← hexp]
  exact gfCommand_ends .gfexp2 .gfExp2 (fun a e => exp2 a e.toNat) hs ha hb

/-- Settles O12: the GF command with the operation `gfmul`. -/
theorem gfmulCommand : Obligations.GfmulCommand := by
  refine ⟨fun w => decode_gfWord (.inr rfl) (by decide), fun s => gfCommand_badOperand _ _ _,
    fun s => gfCommand_ends .gfmul .gfMul gfmul, fun a => ⟨gfmul_zero_right a, gfmul_zero_left a, gfmul_one_right a⟩,
    gfmul_comm, by decide +kernel, by decide +kernel, by decide +kernel⟩

end Sys2Proof.Machine

end

/-! ## Proofs of the parity generation family: what the recurrence computes, the commands GEN, GENP, GENPQ and GENPQR, the
kinds that the map lacks parities for -/

section

/-! ### The Horner recurrence and the two phases (rules R101, R102, R107) -/

namespace Sys2Proof.Machine

/-! #### Doubling and quadrupling a weighted sum -/

/-- An additive function of a sum is the sum of its values. -/
theorem map_xorOver {g : Byte → Byte} (h0 : g 0 = 0) (hg : ∀ a b, g (a ^^^ b) = g a ^^^ g b) (f : Nat → Byte)
    (l : List Nat) : g (xorOver f l) = xorOver (fun i => g (f i)) l := by
  induction l with
  | nil => exact h0
  | cons i rest ih => rw [xorOver_cons, hg, ih, xorOver_cons]

/-- A factor 4 is a quadrupling of the product. -/
theorem gfmul_fourPow_succ (e : Nat) (a : Byte) : gfmul (fourPow (e + 1)) a = mul4 (gfmul (fourPow e) a) := by
  simp only [fourPow, Nat.mul_succ, gfmul_twoPow_succ, mul4]

/-- The last column's coefficient in Q is 1. -/
theorem qCoef_last (n : Nat) : qCoef (n + 1) n = 1 := by
  rw [qCoef, Nat.add_sub_cancel, Nat.sub_self, twoPow_zero]

/-- The last column's coefficient in R is 1. -/
theorem rCoef_last (n : Nat) : rCoef (n + 1) n = 1 := by
  rw [rCoef, fourPow, Nat.add_sub_cancel, Nat.sub_self, Nat.mul_zero, twoPow_zero]

/-- One more column doubles the terms of Q before it. -/
theorem gfmul_qCoef_succ {n i : Nat} (h : i < n) (d : Byte) : gfmul (qCoef (n + 1) i) d = mul2 (gfmul (qCoef n i) d) := by
  rw [qCoef, qCoef, show n + 1 - 1 - i = (n - 1 - i) + 1 by omega, gfmul_twoPow_succ]

/-- One more column quadruples the terms of R before it. -/
theorem gfmul_rCoef_succ {n i : Nat} (h : i < n) (d : Byte) : gfmul (rCoef (n + 1) i) d = mul4 (gfmul (rCoef n i) d) := by
  rw [rCoef, rCoef, show n + 1 - 1 - i = (n - 1 - i) + 1 by omega, gfmul_fourPow_succ]

/-! #### The recurrence -/

/-- Adding 0 is the advance of the multipliers alone. -/
theorem Accumulators.advance_zero (x : Accumulators) : x.advance 0 = ⟨x.p, mul2 x.q, mul4 x.r⟩ := by
  simp [Accumulators.advance]

/-- The first advance gives the first column's byte. -/
theorem Accumulators.advance_start (d : Byte) : Accumulators.advance ⟨0, 0, 0⟩ d = ⟨d, d, d⟩ := by
  rw [Accumulators.advance, mul2_zero, mul4_zero]
  simp

/-- The recurrence over one more column is one more advance. -/
theorem horner_range_succ (d : Nat → Byte) (n : Nat) :
    horner ((List.range (n + 1)).map d) = (horner ((List.range n).map d)).advance (d n) := by
  rw [List.range_succ, List.map_append, horner, List.foldl_append]
  rfl

/-- The recurrence over padded bytes ends with the advance for the last data column. -/
theorem hornerAt_succ {m : RaidzMap} (mem : Memory) (o : Nat) {n : Nat} (hn : m.n = n + 1) : hornerAt m mem o =
    (horner ((List.range n).map fun i => paddedByte m mem i o)).advance (paddedByte m mem n o) := by
  rw [hornerAt, hn, horner_range_succ]

/-- After `n` columns the accumulators hold the three weighted sums: the invariant of the recurrence. -/
theorem horner_range (d : Nat → Byte) (n : Nat) : horner ((List.range n).map d) =
    ⟨xorOver d (List.range n), xorOver (fun i => gfmul (qCoef n i) (d i)) (List.range n),
      xorOver (fun i => gfmul (rCoef n i) (d i)) (List.range n)⟩ := by
  induction n with
  | zero => rfl
  | succ n ih =>
    have hq : xorOver (fun i => gfmul (qCoef (n + 1) i) (d i)) (List.range n) =
        mul2 (xorOver (fun i => gfmul (qCoef n i) (d i)) (List.range n)) := by
      rw [map_xorOver mul2_zero mul2_xor]
      exact xorOver_congr fun i hi => gfmul_qCoef_succ (List.mem_range.mp hi) _
    have hr : xorOver (fun i => gfmul (rCoef (n + 1) i) (d i)) (List.range n) =
        mul4 (xorOver (fun i => gfmul (rCoef n i) (d i)) (List.range n)) := by
      rw [map_xorOver mul4_zero mul4_xor]
      exact xorOver_congr fun i hi => gfmul_rCoef_succ (List.mem_range.mp hi) _
    simp only [horner_range_succ, ih, Accumulators.advance, xorOver_range_succ, hq, hr, qCoef_last, rCoef_last,
      gfmul_one_left]

/-- Settles O26: the sums are those of `horner_range`; on accumulators that are 0 the first advance leaves the byte itself. -/
theorem hornerComputesParity : Obligations.HornerComputesParity := by
  refine fun m mem o => ⟨horner_range _ _, fun d rest => ?_⟩
  rw [horner, List.foldl_cons, Accumulators.advance_start]

/-! #### The two phases -/

/-- Below a column's length the padded byte is the stored one. -/
theorem paddedByte_of_lt {m : RaidzMap} (mem : Memory) {i o : Nat} (h : o < m.len i) :
    paddedByte m mem i o = dataByte m mem i o := if_pos h

/-- From there on it is 0. -/
theorem paddedByte_of_le {m : RaidzMap} (mem : Memory) {i o : Nat} (h : m.len i ≤ o) : paddedByte m mem i o = 0 :=
  if_neg (Nat.not_lt.mpr h)

/-- The recurrence over columns that all reach beyond the offset reads stored bytes only. -/
theorem horner_data_eq_padded {m : RaidzMap} (mem : Memory) {n o : Nat} (h : ∀ i, i < n → o < m.len i) :
    horner ((List.range n).map fun i => dataByte m mem i o) = horner ((List.range n).map fun i => paddedByte m mem i o) :=
  congrArg horner (List.map_congr_left fun i hi => (paddedByte_of_lt mem (h i (List.mem_range.mp hi))).symm)

/-- Settles O27: below `S` no byte is padded; from `S` on the last column's padded byte is 0, and adding it to the advanced
accumulators changes nothing. -/
theorem twoPhaseComputesParity : Obligations.TwoPhaseComputesParity := by
  intro m mem o hv ho
  have hbig : ∀ i, i < m.n - 1 → o < m.len i := fun i hi => (hv.bigLen i (by omega)).symm ▸ ho
  have hn : m.n = m.n - 1 + 1 := by
    have hcount := hv.columnCount
    have hdef : m.n = m.ncols - m.np := rfl
    omega
  unfold twoPhaseAt
  split
  · next hshort =>
    refine horner_data_eq_padded mem fun i hi => ?_
    by_cases hlast : i = m.n - 1
    · exact hlast ▸ hshort
    · exact hbig i (by omega)
  · next hlong =>
    have hzero : paddedByte m mem (m.n - 1) o = 0 := paddedByte_of_le mem (Nat.not_lt.mp hlong)
    rw [hornerAt_succ mem o hn, hzero, Accumulators.advance_zero, horner_data_eq_padded mem hbig]

end Sys2Proof.Machine

end
section

/-! ### The generation commands (rules R101, R103 to R109) -/

namespace Sys2Proof.Machine

/-! #### KIND_UNSUPPORTED (rules R109, R137) -/

/-- A kind with a parity that the map lacks is reported by its code. -/
theorem checkKind_missing {k : Kind} {m : RaidzMap} {p : Nat} (hp : p ∈ k.parities) (hmiss : m.np ≤ p) :
    checkKind k m = some (reject .kindUnsupported k.code) := by
  refine if_neg fun hall => ?_
  have := of_decide_eq_true (List.all_eq_true.mp hall p hp)
  omega

/-- A direct command of a kind with a parity that the map lacks faults when it chooses its kind. -/
theorem exec_missingParity {i : Instr} {k : Kind} {s : State} {p : Nat} (hm : i.isMap = true)
    (hsel : selectOf i = selectDirectGen k ∨ selectOf i = selectDirectRec k) (hs : s.seq = .idle)
    (hb : backendSupported s.platform i.backend = true) (hv : ValidMap s.mapOf) (hp : p ∈ k.parities)
    (hmiss : s.mapOf.np ≤ p) : ∃ t, exec i s = .next t ∧ t.seq = .fault ∧ t.fcode = some .kindUnsupported ∧
      t.finfo = BitVec.ofNat 64 k.code := by
  have hcheck := checkKind_missing hp hmiss
  have herror : selectOf i s = .error (reject .kindUnsupported k.code) := by
    rcases hsel with h | h
    · simp [h, selectDirectGen, hcheck]
    · simp [h, selectDirectRec, hcheck]
  exact ⟨_, exec_reject_kind hm hs hb hv herror, rfl, rfl, rfl⟩

/-- Settles O19: of each kind that needs `need` parities, parity `need - 1` is one it names. -/
theorem missingParityFaults : Obligations.MissingParityFaults := by
  intro bk i code need s hmem hs hb hv hnp
  have hmiss : s.mapOf.np ≤ need - 1 := Nat.le_sub_one_of_lt hnp
  simp only [List.mem_cons, List.not_mem_nil, or_false, Prod.mk.injEq] at hmem
  rcases hmem with ⟨rfl, rfl, rfl⟩ | ⟨rfl, rfl, rfl⟩ | ⟨rfl, rfl, rfl⟩ | ⟨rfl, rfl, rfl⟩ | ⟨rfl, rfl, rfl⟩ |
    ⟨rfl, rfl, rfl⟩ | ⟨rfl, rfl, rfl⟩ | ⟨rfl, rfl, rfl⟩
  · exact exec_missingParity (k := .genPQ) rfl (.inl rfl) hs hb hv (by decide) hmiss
  · exact exec_missingParity (k := .genPQR) rfl (.inl rfl) hs hb hv (by decide) hmiss
  · exact exec_missingParity (k := .recQ) rfl (.inr rfl) hs hb hv (by decide) hmiss
  · exact exec_missingParity (k := .recR) rfl (.inr rfl) hs hb hv (by decide) hmiss
  · exact exec_missingParity (k := .recPQ) rfl (.inr rfl) hs hb hv (by decide) hmiss
  · exact exec_missingParity (k := .recPR) rfl (.inr rfl) hs hb hv (by decide) hmiss
  · exact exec_missingParity (k := .recQR) rfl (.inr rfl) hs hb hv (by decide) hmiss
  · exact exec_missingParity (k := .recPQR) rfl (.inr rfl) hs hb hv (by decide) hmiss

/-! #### What a valid job leaves in memory -/

/-- A byte that some cell names is the same after the cells are stored, whatever memory they are stored in. -/
theorem Memory.read_writeAll_congr {cs : List Host.Cell} {a : Nat} (h : ∃ c ∈ cs, c.1 = a) (m₁ m₂ : Memory) :
    (m₁.writeAll cs).read a = (m₂.writeAll cs).read a := by
  induction cs generalizing m₁ m₂ with
  | nil => simp at h
  | cons c rest ih =>
    rw [Memory.writeAll_cons, Memory.writeAll_cons]
    by_cases hrest : ∃ d ∈ rest, d.1 = a
    · exact ih hrest _ _
    · have hother : ∀ d ∈ rest, d.1 ≠ a := fun d hd hda => hrest ⟨d, hd, hda⟩
      obtain rfl : c.1 = a := by simpa [hrest] using h
      rw [Memory.read_writeAll_other _ _ _ hother, Memory.read_writeAll_other _ _ _ hother, Memory.read_write_same,
        Memory.read_write_same]

/-- Storing the same cells twice is storing them once. -/
theorem Memory.read_writeAll_twice (cs : List Host.Cell) (m : Memory) (a : Nat) :
    ((m.writeAll cs).writeAll cs).read a = (m.writeAll cs).read a := by
  by_cases h : ∃ c ∈ cs, c.1 = a
  · exact Memory.read_writeAll_congr h _ _
  · exact Memory.read_writeAll_other cs _ a fun c hc hca => h ⟨c, hc, hca⟩

/-- On a valid map a column's span is the column, its parity columns having the common length (rule R24). -/
theorem ValidMap.span_eq {m : RaidzMap} (hv : ValidMap m) (c : Nat) : m.span c = m.col c := by
  unfold RaidzMap.span
  split
  · next hc => rw [RaidzMap.parityCol, ← hv.parityLen c hc]
  · rfl

section

variable {k : Kind} {m : RaidzMap} {targets : List Nat} (hj : ValidJob k m targets)

include hj

/-- Storing the cells of a valid job changes no byte outside the columns it writes. -/
theorem ValidJob.sameOutside (mem mem' : Memory) :
    SameOutside (writeSpans k m targets) mem (mem.writeAll (jobCells k m targets mem')) := by
  refine fun a ha => Memory.read_writeAll_other _ _ _ fun c hc hca => ?_
  obtain ⟨g, hg, hin⟩ := hj.jobCells_addr hc
  rw [hca, ha g hg] at hin
  cases hin

/-- A generation leaves in each parity column of its kind what that column holds by rule R101: no other cell of it has the
same address. -/
theorem ValidJob.read_parity (hg : k.isGen = true) (mem mem' : Memory) {p o : Nat} (hp : p ∈ k.parities)
    (ho : o < m.commonLen) :
    (mem.writeAll (jobCells k m targets mem')).read ((m.col p).ptr + o) = parityValue p m mem' o := by
  obtain rfl := hj.genTargets hg
  rw [jobCells_gen k m mem' hg]
  have inCol : ∀ q ∈ k.parities, ∀ x, x < m.commonLen → (m.col q).contains ((m.col q).ptr + x) = true := by
    intro q hq x hx
    rw [contains_iff, hj.validMap.parityLen q (hj.parities q hq)]
    omega
  refine Memory.read_writeAll_mem _ _ _ _ ?_ fun c hc haddr => ?_
  · exact List.mem_flatMap.mpr ⟨p, hp, List.mem_map.mpr ⟨o, List.mem_range.mpr ho, rfl⟩⟩
  · obtain ⟨q, hq, hcell⟩ := List.mem_flatMap.mp hc
    obtain ⟨x, hx, rfl⟩ := List.mem_map.mp hcell
    dsimp only at haddr ⊢
    obtain rfl : p = q := parities_disjoint m k [] hj hg p hp q hq ((m.col p).ptr + o) (inCol p hp o ho)
      (haddr ▸ inCol q hq x (List.mem_range.mp hx))
    rw [Nat.add_left_cancel haddr]

/-- A generation writes none of the bytes it reads (rule R49). -/
theorem ValidJob.agreeOnReads (hg : k.isGen = true) (mem mem' : Memory) :
    AgreeOnReads k m targets (mem.writeAll (jobCells k m targets mem')) mem := by
  intro c hc o ho
  refine hj.sameOutside mem mem' _ fun g hgw => ?_
  obtain ⟨w, hw, rfl⟩ := List.mem_map.mp hgw
  have hwp : w < m.np := hj.parities w (by simpa [writtenCols, hg] using hw)
  obtain ⟨i, hi, rfl⟩ : ∃ i, i < m.n ∧ m.np + i = c := by simpa [readCols, hg, hj.isGf_false] using hc
  have hcount : m.np + i < m.ncols := by
    have hdef : m.n = m.ncols - m.np := rfl
    omega
  have hinv : m.np + i ∈ involvedCols k m targets := by simp [involvedCols, hc, hcount]
  rw [hj.validMap.span_eq] at ho ⊢
  refine Bool.eq_false_iff.mpr fun hin => hj.noOverlap w hw _ hinv (by omega) _ ⟨hin, ?_⟩
  rw [contains_iff]
  omega

end

/-! #### The two transitions -/

/-- A generation command reads the map and has its own backend. -/
theorem genFamily_fields {bk : Nat} {i : Instr} (hi : i ∈ genFamily bk) : i.isMap = true ∧ i.backend = bk := by
  simp only [genFamily, List.mem_cons, List.not_mem_nil, or_false] at hi
  rcases hi with rfl | rfl | rfl | rfl <;> exact ⟨rfl, rfl⟩

/-- A generation command runs generation kinds only. -/
theorem isGen_of_genFamily {bk np : Nat} {i : Instr} {k : Kind} (hi : i ∈ genFamily bk) (hk : kindFor i np = some k) :
    k.isGen = true := by
  simp only [genFamily, List.mem_cons, List.not_mem_nil, or_false] at hi
  rcases hi with rfl | rfl | rfl | rfl <;> simp only [kindFor] at hk
  · split at hk
    · cases hk; rfl
    · split at hk <;> cases hk <;> rfl
  · cases hk; rfl
  · split at hk <;> cases hk; rfl
  · split at hk <;> cases hk; rfl

/-- Acceptability depends on the descriptor, the platform and IDLE only. -/
theorem Acceptable.congr {i : Instr} {k : Kind} {s t : State} (h : Acceptable i k s) (hd : SameDescriptor s t)
    (hs : t.seq = .idle) : Acceptable i k t where
  idle := hs
  backend := hd.platform ▸ h.backend
  kind := mapOf_congr hd ▸ h.kind
  job := by rw [mapOf_congr hd, targets_congr hd]; exact h.job
  aligned := by rw [mapOf_congr hd, targets_congr hd, hd.platform]; exact h.aligned

/-- The two transitions of an acceptable generation command on mapped memory: acceptance, then the end with the kind's bytes
stored. -/
theorem exec_generation {bk : Nat} {k : Kind} {s : State} {i : Instr} (hi : i ∈ genFamily bk) (h : Acceptable i k s)
    (ha : AllMapped s.platform k s.mapOf []) : ∃ s₁ s₂, exec i s = .next s₁ ∧ Accepted k bk s s₁ ∧
      exec i s₁ = .next s₂ ∧ Completed k s s₂ ∧ s₂.gfr = s.gfr ∧ s₂.mem = s.mem.writeAll (jobCells k s.mapOf [] s.mem) := by
  obtain ⟨hm, rfl⟩ := genFamily_fields hi
  have ht : s.targets k.targetCount = [] := h.job.genTargets (isGen_of_genFamily hi h.kind)
  obtain ⟨h₁, h₂⟩ := exec_acceptable_ends hm h (ht.symm ▸ ha)
  rw [ht] at h₂
  exact ⟨_, _, h₁, accepted_accept s (s.latch i i.backend k), h₂, completed_finish s (s.latch i i.backend k) _ _, rfl, rfl⟩

/-- An acceptable generation command has a valid job without targets. -/
theorem Acceptable.genJob {bk : Nat} {k : Kind} {s : State} {i : Instr} (hi : i ∈ genFamily bk) (h : Acceptable i k s) :
    k.isGen = true ∧ ValidJob k s.mapOf [] := by
  have hg := isGen_of_genFamily hi h.kind
  exact ⟨hg, h.job.genTargets hg ▸ h.job⟩

/-! #### The obligations -/

/-- Settles O28: what the stored cells leave in the parity columns and outside them. -/
theorem generationWritesParity : Obligations.GenerationWritesParity := by
  intro bk k s i hi h ha
  obtain ⟨hg, hj⟩ := h.genJob hi
  obtain ⟨s₁, s₂, h₁, hacc, h₂, hend, hgfr, hmem⟩ := exec_generation hi h ha
  refine ⟨s₁, s₂, h₁, hacc, h₂, hend, hgfr, fun p hp o ho => ?_, ?_⟩
  · rw [hmem, hj.read_parity hg s.mem s.mem hp ho]
  · rw [hmem]
    exact hj.sameOutside s.mem s.mem

/-- Settles O29: a byte of the column lies outside the write set of what was latched. -/
theorem directKindLeavesOtherParities : Obligations.DirectKindLeavesOtherParities := by
  intro bk p k s s₁ s₂ i hi h h₁ h₂ hp _ hdisjoint o ho
  have hgen : i ∈ genFamily bk := List.mem_cons_of_mem _ hi
  obtain ⟨hm, -⟩ := genFamily_fields hgen
  obtain ⟨hg, hj⟩ := h.genJob hgen
  have hacc := exec_acceptable hm h
  rw [h₁, Host.Outcome.next.injEq] at hacc
  subst hacc
  have hvalid : ValidLatch (s.latch i i.backend k) :=
    ⟨rfl, fun hgf => by simp [hm] at hgf, fun _ => ⟨h.kind, h.job⟩⟩
  refine onlyWriteSetChanges _ s₂ (s.latch i i.backend k) rfl rfl hvalid h₂ _ (List.any_eq_false.mpr fun g hgw hin => ?_)
  obtain ⟨q, hq, rfl⟩ := List.mem_map.mp hgw
  have hq' : q ∈ k.parities := by simpa [writtenCols, hg] using hq
  rw [State.latch_map, hj.validMap.span_eq] at hin
  refine hdisjoint q hq' _ ⟨hin, ?_⟩
  rw [contains_iff, hj.validMap.parityLen p hp]
  omega

/-- Settles O30: the first generation wrote none of what it reads, so the second stores the same cells again. -/
theorem generationRepeats : Obligations.GenerationRepeats := by
  intro bk k s i hi h ha
  obtain ⟨hg, hj⟩ := h.genJob hi
  obtain ⟨s₁, s₂, h₁, -, h₂, hend, -, hmem⟩ := exec_generation hi h ha
  have hmap : s₂.mapOf = s.mapOf := mapOf_congr hend.descriptor
  have ha₂ : AllMapped s₂.platform k s₂.mapOf [] := by rw [hend.descriptor.platform, hmap]; exact ha
  obtain ⟨s₃, s₄, h₃, -, h₄, hend₄, -, hmem₄⟩ := exec_generation hi (h.congr hend.descriptor hend.idle) ha₂
  have hcells : jobCells k s.mapOf [] s₂.mem = jobCells k s.mapOf [] s.mem := by
    rw [hmem]
    exact hj.jobCells_eq (hj.agreeOnReads hg s.mem s.mem)
  refine ⟨s₁, s₂, s₃, s₄, h₁, h₂, h₃, h₄, hend.done, hend₄.done, fun a => ?_⟩
  rw [hmem₄, hmap, hcells, hmem]
  exact Memory.read_writeAll_twice _ s.mem a

end Sys2Proof.Machine

end

/-! ## Proofs of the reconstruction family: the choice of targets and kind, the linear system and its closed forms, the
commands REC and RECP to RECPQR, the round trip -/

section

/-! ### Choosing a reconstruction: targets and lookup (rules R120 to R123, R137) -/

namespace Sys2Proof.Machine

/-! #### BAD_TARGET (rule R121) -/

/-- BAD_TARGET reports the first register that is not acceptable. -/
theorem checkTargets_some {k j : Nat} {m : RaidzMap} {targets : List Nat} (hj : j < k)
    (hbad : targetOk m targets j = false) (hmin : ∀ j', j' < j → targetOk m targets j' = true) :
    checkTargets k m targets = some (reject .badTarget j) := by
  have hfind : (List.range k).find? (fun j => !targetOk m targets j) = some j :=
    List.find?_range_eq_some.mpr ⟨by simp [hbad], List.mem_range.mpr hj, fun j' h => by simp [hmin j' h]⟩
  rw [checkTargets, if_neg (by omega), hfind, Option.map_some]

/-- The targets in use are the first target registers (rule R34). -/
theorem targets_getD (s : State) {j k : Nat} (h : j < k) : (s.targets k).getD j 0 = s.targetRegs.getD j 0 := by
  rw [List.getD_eq_getElem?_getD, List.getD_eq_getElem?_getD]
  exact congrArg (Option.getD · 0) (List.getElem?_take_of_lt h)

/-- An acceptable target register, in terms of the registers (rule R121). -/
theorem targetOk_iff (s : State) {j k : Nat} (h : j < k) : targetOk s.mapOf (s.targets k) j = true ↔
    s.mapOf.np ≤ s.targetRegs.getD j 0 ∧ s.targetRegs.getD j 0 < s.mapOf.ncols ∧
      (0 < j → s.targetRegs.getD (j - 1) 0 < s.targetRegs.getD j 0) := by
  rw [targetOk, targets_getD s h, targets_getD s (lt_of_le_of_lt (Nat.sub_le j 1) h)]
  simp only [Bool.and_eq_true, Bool.or_eq_true, decide_eq_true_eq]
  omega

/-- A direct reconstruction command runs its own kind, on the number of targets that its name has letters. -/
theorem directRec_fields {bk k np : Nat} {i : Instr} {j : Kind} (hi : (i, k) ∈ [(Instr.recp bk, 1), (.recq bk, 1),
    (.recr bk, 1), (.recpq bk, 2), (.recpr bk, 2), (.recqr bk, 2), (.recpqr bk, 3)]) (hj : kindFor i np = some j) :
    i.isMap = true ∧ i.backend = bk ∧ selectOf i = selectDirectRec j ∧ j.targetCount = k := by
  simp only [List.mem_cons, List.not_mem_nil, or_false, Prod.mk.injEq] at hi
  rcases hi with ⟨rfl, rfl⟩ | ⟨rfl, rfl⟩ | ⟨rfl, rfl⟩ | ⟨rfl, rfl⟩ | ⟨rfl, rfl⟩ | ⟨rfl, rfl⟩ | ⟨rfl, rfl⟩ <;>
    simp only [kindFor, Option.ite_none_right_eq_some, Option.some.injEq] at hj
  · subst hj; exact ⟨rfl, rfl, rfl, rfl⟩
  all_goals obtain ⟨-, rfl⟩ := hj; exact ⟨rfl, rfl, rfl, rfl⟩

/-- A direct kind whose parities the map has takes the fault of its targets. -/
theorem selectDirectRec_badTarget {k : Kind} {s : State} (hp : ∀ p ∈ k.parities, p < s.mapOf.np) {r : Reject}
    (h : checkTargets k.targetCount s.mapOf (s.targets k.targetCount) = some r) : selectDirectRec k s = .error r := by
  simp [selectDirectRec, (checkKind_none _ _).mpr hp, h]

/-- REC looks at its targets first. -/
theorem selectRec_badTarget {valid tcnt : Nat} {s : State} {r : Reject}
    (h : checkTargets tcnt s.mapOf (s.targets tcnt) = some r) : selectRec valid tcnt s = .error r := by
  simp [selectRec, h]

/-- Settles O20: REC checks its targets first, a direct kind right after its parities; the search goes through the registers
in their order. -/
theorem badTargetReportsFirstRegister : Obligations.BadTargetReportsFirstRegister := by
  intro bk valid tcnt i k s hi _ hkind hs hb hv tgt good faults
  have hfault : ∀ info, checkTargets k s.mapOf (s.targets k) = some (reject .badTarget info) → faults info := by
    intro info hcheck
    rcases List.mem_cons.mp hi with heq | hdirect
    · obtain ⟨rfl, rfl⟩ := Prod.mk.inj heq
      exact ⟨_, exec_reject_kind rfl hs hb hv (selectRec_badTarget hcheck), rfl, rfl, rfl⟩
    · have hne : i ≠ .reconstruct bk valid tcnt := by
        rintro rfl
        simp at hdirect
      obtain ⟨j, hj⟩ := Option.isSome_iff_exists.mp (hkind hne)
      obtain ⟨hm, rfl, hsel, rfl⟩ := directRec_fields hdirect hj
      have herror : selectOf i s = .error (reject .badTarget info) := by
        rw [hsel]
        exact selectDirectRec_badTarget (kindFor_parities hv.parityCount.1 hj) hcheck
      exact ⟨_, exec_reject_kind hm hs hb hv herror, rfl, rfl, rfl⟩
  refine ⟨fun h0 => hfault 3 (if_pos h0), fun j hj hbad hmin => hfault j (checkTargets_some hj ?_ fun j' hj' => ?_)⟩
  · exact Bool.eq_false_iff.mpr (mt (targetOk_iff s hj).mp hbad)
  · exact (targetOk_iff s (hj'.trans hj)).mpr (hmin j' hj')

/-! #### The lookup of REC (rules R122, R123) -/

/-- Where the mask names no absent parity, REC runs the kind of the table's cell. -/
theorem kindFor_reconstruct {valid np : Nat} (h : valid < 2 ^ np) (bk tcnt : Nat) :
    kindFor (.reconstruct bk valid tcnt) np = lookupKind valid tcnt := if_pos h

/-- Settles O21: the twelve cells are entries of `lookupKind`, and the command is acceptable. -/
theorem recSelectsByTable : Obligations.RecSelectsByTable := by
  intro bk valid tcnt k used s hcell hs hb hv ht hvalid hover halign
  obtain ⟨hlookup, hused⟩ : lookupKind valid tcnt = some k ∧ k.usedMask = used :=
    (by decide : ∀ c ∈ _, lookupKind c.1 c.2.1 = some c.2.2.1 ∧ c.2.2.1.usedMask = c.2.2.2) _ hcell
  have hkind := (kindFor_reconstruct hvalid bk tcnt).trans hlookup
  obtain ⟨rfl, hrec, -⟩ := lookupKind_some hlookup
  have hjob : ValidJob k s.mapOf (s.targets k.targetCount) :=
    ⟨hv, kindFor_parities hv.parityCount.1 hkind, (absurd · (by simp [hrec])), fun _ => ht, hover⟩
  exact ⟨_, exec_acceptable rfl ⟨hs, hb, hkind, hjob, halign⟩, rfl, rfl, hused⟩

/-- A mask that names an absent parity, or a cell without a kind, is NO_ROUTINE. -/
theorem selectRec_noRoutine {valid tcnt : Nat} {s : State} (ht : ValidTargets tcnt s.mapOf (s.targets tcnt))
    (h : 2 ^ s.mapOf.np ≤ valid ∨ lookupKind valid tcnt = none) :
    selectRec valid tcnt s = .error (reject .noRoutine (valid * 2 ^ 8 + tcnt)) := by
  obtain ⟨hlen, -, hle⟩ := ht.count
  rw [selectRec, (checkTargets_none hle hlen).mpr ht]
  dsimp only
  split
  · rfl
  · next habsent =>
    have hvalid : valid < 2 ^ s.nparity.toNat := (Nat.div_eq_zero_iff_lt (Nat.two_pow_pos _)).mp (not_not.mp habsent)
    rw [h.resolve_left (Nat.not_le.mpr hvalid)]

/-- Settles O22: the twelve empty cells are those of `lookupKind`. -/
theorem noRoutineFaults : Obligations.NoRoutineFaults := by
  intro bk valid tcnt s hs hb hv ht h
  have hempty := h.imp_right ((by decide : ∀ c ∈ _, lookupKind c.1 c.2 = none) (valid, tcnt))
  exact ⟨_, exec_reject_kind rfl hs hb hv (selectRec_noRoutine ht hempty), rfl, rfl, rfl⟩

end Sys2Proof.Machine

end
section

/-! ### The linear system and its closed forms (rules R126 to R134) -/

namespace Sys2Proof.Machine

/-! #### Equations of bytes -/

/-- A term added twice is gone. -/
theorem xor_xor_cancel_left (x y : Byte) : x ^^^ (x ^^^ y) = y := by
  rw [← BitVec.xor_assoc, BitVec.xor_self, BitVec.zero_xor]

theorem xor_left_comm (x y z : Byte) : x ^^^ (y ^^^ z) = y ^^^ (x ^^^ z) := by ac_rfl

/-- A term moves to the other side of an equation of sums. -/
theorem xor_eq_iff {x y z : Byte} : x ^^^ y = z ↔ y = z ^^^ x := by
  rw [BitVec.xor_comm z]
  constructor <;> rintro rfl <;> rw [xor_xor_cancel_left]

theorem xor_ne_zero {a b : Byte} (h : a ≠ b) : a ^^^ b ≠ 0 := mt BitVec.xor_eq_zero_iff.mp h

theorem gfmul_left_comm (a b c : Byte) : gfmul a (gfmul b c) = gfmul b (gfmul a c) := by
  rw [← gfmul_assoc, gfmul_comm a b, gfmul_assoc]

/-- A factor that has an inverse moves to the other side of an equation. -/
theorem gfmul_eq_iff_of_inverse {a b : Byte} (h : gfmul a b = 1) {x y : Byte} : gfmul a x = y ↔ x = gfmul y b := by
  constructor
  · rintro rfl
    rw [gfmul_comm a x, gfmul_assoc, h, gfmul_one_right]
  · rintro rfl
    rw [gfmul_left_comm, h, gfmul_one_right]

theorem gfmul_eq_iff {a : Byte} (h : a ≠ 0) {x y : Byte} : gfmul a x = y ↔ x = gfmul y (gfinv a) :=
  gfmul_eq_iff_of_inverse (gfmul_gfinv h)

theorem gfmul_ne_zero {a b : Byte} (ha : a ≠ 0) (hb : b ≠ 0) : gfmul a b ≠ 0 := by
  intro h
  rw [gfmul_eq_iff ha, gfmul_zero_left] at h
  exact hb h

/-! #### The closed forms -/

/-- One unknown with a power of 2 as its coefficient: the division goes through the inverse exponent (rules R127, R128). -/
theorem one_unknown (e : Nat) {x s : Byte} : gfmul (twoPow e) x = s ↔ x = exp2 s (255 - e % 255) := by
  have hinv : gfmul (twoPow e) (twoPow (255 - e % 255)) = 1 := by
    rw [gfmul_twoPow, ← twoPow_zero]
    exact twoPow_congr (by omega)
  have hexp : gfmul s (twoPow (255 - e % 255)) = exp2 s (255 - e % 255) := by
    obtain rfl | ⟨f, rfl⟩ := zero_or_twoPow s
    · rw [gfmul_zero_left, exp2_zero_left]
    · rw [gfmul_twoPow, exp2_twoPow f (by omega)]
  rw [gfmul_eq_iff_of_inverse hinv, hexp]

/-- Two unknowns, P and one other parity (rules R129, R130). -/
theorem two_unknowns {a b : Byte} (hab : a ≠ b) {x y p s : Byte} :
    x ^^^ y = p ∧ gfmul a x ^^^ gfmul b y = s ↔ x = solveTwo a b p s ∧ y = p ^^^ x := by
  rw [xor_eq_iff, solveTwo, ← gfmul_eq_iff (xor_ne_zero hab), and_comm]
  refine and_congr_left fun hy => ?_
  have hsum : gfmul a x ^^^ gfmul b y = gfmul b p ^^^ gfmul (a ^^^ b) x := by
    rw [hy, gfmul_xor_right, gfmul_xor_left]
    ac_rfl
  rw [hsum, xor_eq_iff]

/-- Two unknowns, Q and R, whose coefficients are the squares of those of Q (rule R131). -/
theorem two_unknowns_squares {a b : Byte} (ha : a ≠ 0) (hb : b ≠ 0) (hab : a ≠ b) {x y q r : Byte} :
    gfmul a x ^^^ gfmul b y = q ∧ gfmul (gfmul a a) x ^^^ gfmul (gfmul b b) y = r ↔
      x = gfmul (r ^^^ gfmul b q) (gfinv (gfmul a (a ^^^ b))) ∧ y = gfmul (q ^^^ gfmul a x) (gfinv b) := by
  rw [← gfmul_eq_iff (gfmul_ne_zero ha (xor_ne_zero hab)), ← gfmul_eq_iff hb, xor_eq_iff, and_comm]
  refine and_congr_left fun hy => ?_
  have hsum : gfmul (gfmul a a) x ^^^ gfmul (gfmul b b) y = gfmul b q ^^^ gfmul (gfmul a (a ^^^ b)) x := by
    rw [gfmul_assoc b b, hy]
    simp only [gfmul_xor_right, gfmul_xor_left, gfmul_assoc, gfmul_left_comm b a]
    ac_rfl
  rw [hsum, xor_eq_iff]

/-- The weights `b²`, `c²` by the weights `b`, `c` and 1: `t²` is `(b + c) t + b c` for `t = b` and `t = c`. -/
theorem gfmul_squares (b c y z : Byte) : gfmul (gfmul b b) y ^^^ gfmul (gfmul c c) z =
    gfmul (b ^^^ c) (gfmul b y ^^^ gfmul c z) ^^^ gfmul (gfmul b c) (y ^^^ z) := by
  simp only [gfmul_xor_left, gfmul_xor_right, gfmul_assoc, gfmul_left_comm c b, BitVec.xor_assoc,
    BitVec.xor_comm, xor_left_comm, xor_xor_cancel_left]

/-- Three unknowns: given the equations of P and Q, which are a system of two in the last unknowns, that of R is one in the
first unknown alone (rule R132). -/
theorem three_unknowns {a b c : Byte} (hab : a ≠ b) (hac : a ≠ c) (hbc : b ≠ c) {x y z p q r : Byte} :
    x ^^^ (y ^^^ z) = p ∧ gfmul a x ^^^ (gfmul b y ^^^ gfmul c z) = q ∧
        gfmul (gfmul a a) x ^^^ (gfmul (gfmul b b) y ^^^ gfmul (gfmul c c) z) = r ↔
      x = gfmul (r ^^^ gfmul (b ^^^ c) q ^^^ gfmul (gfmul b c) p) (gfinv (gfmul (a ^^^ b) (a ^^^ c))) ∧
        y = solveTwo b c (p ^^^ x) (q ^^^ gfmul a x) ∧ z = p ^^^ x ^^^ y := by
  rw [← two_unknowns hbc, ← gfmul_eq_iff (gfmul_ne_zero (xor_ne_zero hab) (xor_ne_zero hac)), xor_eq_iff (x := x),
    xor_eq_iff (x := gfmul a x), ← and_assoc, and_comm]
  refine and_congr_left fun ⟨hp, hq⟩ => ?_
  have hsum : gfmul (gfmul a a) x ^^^ (gfmul (gfmul b b) y ^^^ gfmul (gfmul c c) z) =
      (gfmul (b ^^^ c) q ^^^ gfmul (gfmul b c) p) ^^^ gfmul (gfmul (a ^^^ b) (a ^^^ c)) x := by
    rw [gfmul_squares, hp, hq]
    simp only [gfmul_xor_left, gfmul_xor_right, gfmul_assoc, gfmul_left_comm c a, gfmul_left_comm b a]
    ac_rfl
  rw [hsum, xor_eq_iff, BitVec.xor_assoc]

end Sys2Proof.Machine

end
section

/-! ### What a reconstruction solves (rules R120, R124, R134) -/

namespace Sys2Proof.Machine

/-! #### Targets as data indices -/

/-- A target's data index is that of a data column. -/
theorem ValidTargets.dataTarget_lt {k : Nat} {m : RaidzMap} {targets : List Nat} (h : ValidTargets k m targets) {j : Nat}
    (hj : j < k) : dataTarget m targets j < m.n := by
  have hlen := h.count.1 ▸ hj
  have hmem := h.inData _ (List.getElem_mem hlen)
  have hn : m.n = m.ncols - m.np := rfl
  rw [dataTarget, List.getD_eq_getElem _ _ hlen]
  omega

/-- Data indices of targets rise. -/
theorem ValidTargets.dataTarget_strictMono {k : Nat} {m : RaidzMap} {targets : List Nat} (h : ValidTargets k m targets)
    {i j : Nat} (hij : i < j) (hj : j < k) : dataTarget m targets i < dataTarget m targets j := by
  have hlen := h.count.1 ▸ hj
  have hi := h.inData _ (List.getElem_mem (hij.trans hlen))
  have hlt := List.pairwise_iff_getElem.mp h.ascending i j (hij.trans hlen) hlen hij
  rw [dataTarget, dataTarget, List.getD_eq_getElem _ _ hlen, List.getD_eq_getElem _ _ (hij.trans hlen)]
  omega

theorem dataTargets_eq (m : RaidzMap) (targets : List Nat) :
    dataTargets m targets = (List.range targets.length).map (dataTarget m targets) := by
  refine List.ext_getElem (by simp [dataTargets]) fun j h₁ h₂ => ?_
  simp only [dataTargets, List.length_map] at h₁
  simp [dataTargets, dataTarget, h₁]

/-! #### The coefficients of the unknowns (rule R90) -/

/-- There are at most 255 data columns (rule R27). -/
theorem ValidMap.n_le {m : RaidzMap} (hv : ValidMap m) : m.n ≤ 255 := by
  have := hv.columnCount
  have hn : m.n = m.ncols - m.np := rfl
  omega

theorem qCoef_ne_zero (n i : Nat) : qCoef n i ≠ 0 := twoPow_ne_zero _

theorem rCoef_eq_square (n i : Nat) : rCoef n i = gfmul (qCoef n i) (qCoef n i) := by
  rw [qCoef, gfmul_twoPow, ← Nat.two_mul]
  rfl

/-- Of two targets the coefficients differ, in Q and in R. -/
theorem ValidTargets.coef_ne {k : Nat} {m : RaidzMap} {targets : List Nat} (ht : ValidTargets k m targets) (hv : ValidMap m)
    {i j : Nat} (hij : i < j) (hj : j < k) :
    qCoef m.n (dataTarget m targets i) ≠ qCoef m.n (dataTarget m targets j) ∧
      rCoef m.n (dataTarget m targets i) ≠ rCoef m.n (dataTarget m targets j) := by
  have hlt := ht.dataTarget_strictMono hij hj
  have hn := ht.dataTarget_lt hj
  have hmax := hv.n_le
  exact twoPow_ne_of_ne (by omega) (by omega) (by omega)

/-! #### The closed form is the only solution -/

section

variable {n i j : Nat} {x y : Byte}

theorem solvePQ_iff (hij : qCoef n i ≠ qCoef n j) {p q : Byte} :
    x ^^^ y = p ∧ gfmul (qCoef n i) x ^^^ gfmul (qCoef n j) y = q ↔ [x, y] = solvePQ n i j p q := by
  rw [two_unknowns hij]
  simp +contextual [solvePQ]

theorem solvePR_iff (hij : rCoef n i ≠ rCoef n j) {p r : Byte} :
    x ^^^ y = p ∧ gfmul (rCoef n i) x ^^^ gfmul (rCoef n j) y = r ↔ [x, y] = solvePR n i j p r := by
  rw [two_unknowns hij]
  simp +contextual [solvePR]

theorem solveQR_iff (hij : qCoef n i ≠ qCoef n j) {q r : Byte} :
    gfmul (qCoef n i) x ^^^ gfmul (qCoef n j) y = q ∧ gfmul (rCoef n i) x ^^^ gfmul (rCoef n j) y = r ↔
      [x, y] = solveQR n i j q r := by
  rw [rCoef_eq_square, rCoef_eq_square, two_unknowns_squares (qCoef_ne_zero n i) (qCoef_ne_zero n j) hij]
  simp +contextual [solveQR]

theorem solvePQR_iff {l : Nat} (hij : qCoef n i ≠ qCoef n j) (hil : qCoef n i ≠ qCoef n l) (hjl : qCoef n j ≠ qCoef n l)
    {z p q r : Byte} :
    x ^^^ (y ^^^ z) = p ∧ gfmul (qCoef n i) x ^^^ (gfmul (qCoef n j) y ^^^ gfmul (qCoef n l) z) = q ∧
        gfmul (rCoef n i) x ^^^ (gfmul (rCoef n j) y ^^^ gfmul (rCoef n l) z) = r ↔
      [x, y, z] = solvePQR n i j l p q r := by
  rw [rCoef_eq_square, rCoef_eq_square, rCoef_eq_square, three_unknowns hij hil hjl]
  simp +contextual [solvePQR, solveTwo]

end

theorem recSolution_length {k : Kind} (m : RaidzMap) (targets : List Nat) (mem : Memory) (o : Nat) :
    (recSolution k m targets mem o).length = k.targetCount := by
  cases k <;> rfl

/-- The bytes that satisfy the equations of a kind's parities are those of its closed form. -/
theorem solvesSystem_iff {k : Kind} {m : RaidzMap} {targets : List Nat} (hv : ValidMap m)
    (ht : ValidTargets k.targetCount m targets) (mem : Memory) (o : Nat) {xs : List Byte} (hxs : xs.length = k.targetCount) :
    SolvesSystem k m targets mem o xs ↔ xs = recSolution k m targets mem o := by
  rw [SolvesSystem, ht.count.1]
  cases k
  case recP =>
    obtain ⟨x, rfl⟩ := List.length_eq_one_iff.mp hxs
    simp [Kind.parities, Kind.targetCount, recSolution]
  case recQ =>
    obtain ⟨x, rfl⟩ := List.length_eq_one_iff.mp hxs
    have hexp : (m.n - 1 - dataTarget m targets 0) % 255 = m.n - 1 - dataTarget m targets 0 :=
      Nat.mod_eq_of_lt (by have := ht.dataTarget_lt (j := 0) (by decide); have := hv.n_le; omega)
    simp [Kind.parities, Kind.targetCount, recSolution, qCoef, one_unknown, hexp]
  case recR =>
    obtain ⟨x, rfl⟩ := List.length_eq_one_iff.mp hxs
    simp [Kind.parities, Kind.targetCount, recSolution, rCoef, fourPow, one_unknown]
  case recPQ =>
    obtain ⟨x, y, rfl⟩ := List.length_eq_two.mp hxs
    obtain ⟨hq, -⟩ := ht.coef_ne hv (i := 0) (j := 1) (by decide) (by decide)
    exact Iff.trans (by simp [Kind.parities, Kind.targetCount, List.range_succ]) (solvePQ_iff hq)
  case recPR =>
    obtain ⟨x, y, rfl⟩ := List.length_eq_two.mp hxs
    obtain ⟨-, hr⟩ := ht.coef_ne hv (i := 0) (j := 1) (by decide) (by decide)
    exact Iff.trans (by simp [Kind.parities, Kind.targetCount, List.range_succ]) (solvePR_iff hr)
  case recQR =>
    obtain ⟨x, y, rfl⟩ := List.length_eq_two.mp hxs
    obtain ⟨hq, -⟩ := ht.coef_ne hv (i := 0) (j := 1) (by decide) (by decide)
    exact Iff.trans (by simp [Kind.parities, Kind.targetCount, List.range_succ]) (solveQR_iff hq)
  case recPQR =>
    obtain ⟨x, y, z, rfl⟩ := List.length_eq_three.mp hxs
    obtain ⟨h01, -⟩ := ht.coef_ne hv (i := 0) (j := 1) (by decide) (by decide)
    obtain ⟨h02, -⟩ := ht.coef_ne hv (i := 0) (j := 2) (by decide) (by decide)
    obtain ⟨h12, -⟩ := ht.coef_ne hv (i := 1) (j := 2) (by decide) (by decide)
    exact Iff.trans (by simp [Kind.parities, Kind.targetCount, List.range_succ]) (solvePQR_iff h01 h02 h12)
  all_goals exact absurd ht.count.2.1 (by decide)

/-! #### The original data is a solution -/

/-- A sum over a list is the sum over the members with a property and the sum over the others. -/
theorem xorOver_filter (f : Nat → Byte) (q : Nat → Bool) (l : List Nat) :
    xorOver f l = xorOver f (l.filter q) ^^^ xorOver f (l.filter fun i => !q i) := by
  induction l with
  | nil => simp
  | cons i rest ih =>
    cases hq : q i with
    | true =>
      rw [List.filter_cons_of_pos hq, List.filter_cons_of_neg (by simp [hq]), xorOver_cons, xorOver_cons, ih, BitVec.xor_assoc]
    | false =>
      rw [List.filter_cons_of_neg (by simp [hq]), List.filter_cons_of_pos (by simp [hq]), xorOver_cons, xorOver_cons, ih,
        xor_left_comm]

theorem xorOver_map (f : Nat → Byte) (g : Nat → Nat) (l : List Nat) : xorOver f (l.map g) = xorOver (fun i => f (g i)) l := by
  induction l with
  | nil => rfl
  | cons i rest ih => rw [List.map_cons, xorOver_cons, ih, xorOver_cons]

/-- The data columns are the targets and the survivors. -/
theorem ValidTargets.filter_dataTargets {k : Nat} {m : RaidzMap} {targets : List Nat} (h : ValidTargets k m targets) :
    (List.range m.n).filter (dataTargets m targets).contains = dataTargets m targets := by
  have hasc : (dataTargets m targets).Pairwise (· < ·) := by
    rw [dataTargets_eq, List.pairwise_map]
    exact List.pairwise_lt_range.imp_of_mem fun _ hj hij => h.dataTarget_strictMono hij (h.count.1 ▸ List.mem_range.mp hj)
  have hmem : ∀ i, i ∈ (List.range m.n).filter (dataTargets m targets).contains ↔ i ∈ dataTargets m targets := by
    intro i
    rw [List.mem_filter, List.contains_iff_mem, List.mem_range, and_iff_right_iff_imp, dataTargets_eq]
    rintro hi
    obtain ⟨j, hj, rfl⟩ := List.mem_map.mp hi
    exact h.dataTarget_lt (h.count.1 ▸ List.mem_range.mp hj)
  have hperm := (List.perm_ext_iff_of_nodup (List.nodup_range.filter _) (hasc.imp ne_of_lt)).mpr hmem
  exact hperm.eq_of_pairwise (fun _ _ _ _ hij hji => absurd (hij.trans hji) (lt_irrefl _)) (List.pairwise_lt_range.filter _) hasc

/-- What the sum over all data columns less that over the survivors leaves is the sum over the targets. -/
theorem ValidTargets.xorOver_targets {k : Nat} {m : RaidzMap} {targets : List Nat} (h : ValidTargets k m targets)
    (f : Nat → Byte) : xorOver (fun j => f (dataTarget m targets j)) (List.range targets.length) =
      xorOver f (List.range m.n) ^^^ xorOver f (survivors m targets) := by
  rw [xorOver_filter f (dataTargets m targets).contains (List.range m.n), h.filter_dataTargets, dataTargets_eq, xorOver_map,
    survivors, dataTargets_eq, BitVec.xor_assoc, BitVec.xor_self, BitVec.xor_zero]

/-- Where the parities of the kind are those of the data, the data solve the system. -/
theorem solvesSystem_data {k : Kind} {m : RaidzMap} {targets : List Nat} {mem : Memory} {o : Nat}
    (ht : ValidTargets k.targetCount m targets) (hpar : ParityConsistent k m mem) (ho : o < m.commonLen) :
    SolvesSystem k m targets mem o (targets.map fun t => paddedByte m mem (t - m.np) o) := by
  have hbyte : ∀ j ∈ List.range targets.length,
      (targets.map fun t => paddedByte m mem (t - m.np) o).getD j 0 = paddedByte m mem (dataTarget m targets j) o := by
    intro j hj
    have hlt := List.mem_range.mp hj
    simp [dataTarget, hlt]
  refine ⟨fun hp => ?_, fun hq => ?_, fun hr => ?_⟩
  · rw [syndromeP, hpar 0 hp o ho]
    exact (xorOver_congr hbyte).trans (ht.xorOver_targets fun i => paddedByte m mem i o)
  · rw [syndromeQ, hpar 1 hq o ho]
    exact (xorOver_congr fun j hj => congrArg (gfmul _) (hbyte j hj)).trans
      (ht.xorOver_targets fun i => gfmul (qCoef m.n i) (paddedByte m mem i o))
  · rw [syndromeR, hpar 2 hr o ho]
    exact (xorOver_congr fun j hj => congrArg (gfmul _) (hbyte j hj)).trans
      (ht.xorOver_targets fun i => gfmul (rCoef m.n i) (paddedByte m mem i o))

/-- Settles O32: the closed form is the one solution, and the original data, where the parities fit it, is a solution. -/
theorem recoveredBytesAreTheSolution : Obligations.RecoveredBytesAreTheSolution := by
  intro k m targets mem o _ _ _ hv _ ht
  exact ⟨(solvesSystem_iff hv ht mem o (recSolution_length m targets mem o)).mpr rfl,
    fun xs hxs => (solvesSystem_iff hv ht mem o hxs).mp, fun hpar ho => solvesSystem_data ht hpar ho⟩

end Sys2Proof.Machine

end
section

/-! ### The reconstruction commands (rules R123, R126 to R136) -/

namespace Sys2Proof.Machine

/-! #### What a valid job leaves in memory -/

theorem contains_ptr_add {g : Segment} {o : Nat} (h : o < g.len) : g.contains (g.ptr + o) = true :=
  (contains_iff _ _).mpr ⟨Nat.le_add_right _ _, Nat.add_lt_add_left h _⟩

section

variable {k : Kind} {m : RaidzMap} {targets : List Nat} (hj : ValidJob k m targets)

include hj

/-- A reconstruction stores its closed form's bytes, gated by each target's length (rule R133). -/
theorem ValidJob.jobCells_rec (hg : k.isGen = false) (mem : Memory) :
    jobCells k m targets mem = targetCells m targets (recSolution k m targets mem) := by
  have hgf := hj.isGf_false
  exact Machine.jobCells_rec k m targets mem hg (by rintro rfl; cases hgf) (by rintro rfl; cases hgf)

/-- A reconstruction leaves in each target the closed form's byte at every offset below its length: no other cell has the
same address. -/
theorem ValidJob.read_target (hg : k.isGen = false) (mem mem' : Memory) {j o : Nat} (hlt : j < targets.length)
    (ho : o < (m.col targets[j]).len) :
    (mem.writeAll (jobCells k m targets mem')).read ((m.col targets[j]).ptr + o) =
      (recSolution k m targets mem' o).getD j 0 := by
  rw [hj.jobCells_rec hg]
  have hnodup : targets.Nodup := (hj.recTargets hg).ascending.imp ne_of_lt
  refine Memory.read_writeAll_mem _ _ _ _ ?_ fun c hc haddr => ?_
  · exact List.mem_flatMap.mpr ⟨(targets[j], j), List.mk_mem_zipIdx_iff_getElem?.mpr (List.getElem?_eq_getElem hlt),
      List.mem_map.mpr ⟨o, List.mem_range.mpr ho, rfl⟩⟩
  · obtain ⟨⟨t, j'⟩, ht, hcell⟩ := List.mem_flatMap.mp hc
    obtain ⟨x, hx, rfl⟩ := List.mem_map.mp hcell
    obtain ⟨hlt', rfl⟩ := List.getElem?_eq_some_iff.mp (List.mk_mem_zipIdx_iff_getElem?.mp ht)
    dsimp only at haddr ⊢
    have hsame : targets[j] = targets[j'] := targets_disjoint m k targets hj hg _ (List.getElem_mem hlt) _
      (List.getElem_mem hlt') _ (contains_ptr_add ho) (haddr ▸ contains_ptr_add (List.mem_range.mp hx))
    obtain rfl : j = j' := hnodup.getElem_inj_iff.mp hsame
    rw [Nat.add_left_cancel haddr]

/-- A reconstruction reads no target column. -/
theorem ValidJob.notMem_readCols (hg : k.isGen = false) {t : Nat} (ht : t ∈ targets) : t ∉ readCols k m targets := by
  have hdata := (hj.recTargets hg).inData t ht
  have hpar : t ∉ k.parities := fun hp => by
    have := hj.parities t hp
    omega
  simp [readCols, hg, hj.isGf_false, hpar, ht]

/-- What a kind reads are columns of the map. -/
theorem ValidJob.readCols_lt {c : Nat} (hc : c ∈ readCols k m targets) : c < m.ncols := by
  have hcount := hj.validMap.columnCount
  have hn : m.n = m.ncols - m.np := rfl
  have hsplit : c ∈ k.parities ∨ ∃ i, i < m.n ∧ m.np + i = c := by
    cases hg : k.isGen with
    | true => exact .inr (by simpa [readCols, hg, hj.isGf_false] using hc)
    | false =>
      simp only [readCols, hg, hj.isGf_false, Bool.false_eq_true, if_false, List.mem_append, List.mem_filter] at hc
      exact hc.imp_right fun ⟨hdata, _⟩ => by simpa using hdata
  rcases hsplit with hp | ⟨i, hi, rfl⟩
  · have := hj.parities c hp
    omega
  · omega

/-- A reconstruction reads no byte of its targets (rule R49), so memories that differ in those only agree on its reads. -/
theorem ValidJob.agreeOnReads_of_targets (hg : k.isGen = false) {m₁ m₂ : Memory}
    (h : ∀ a, (∀ t ∈ targets, (m.col t).contains a = false) → m₁.read a = m₂.read a) :
    AgreeOnReads k m targets m₁ m₂ := by
  intro c hc o ho
  refine h _ fun t ht => ?_
  have hinv : c ∈ involvedCols k m targets := by simp [involvedCols, hc, hj.readCols_lt hc]
  have hne : c ≠ t := fun heq => hj.notMem_readCols hg ht (heq ▸ hc)
  rw [hj.validMap.span_eq] at ho
  have hw : t ∈ writtenCols k targets := by simpa [writtenCols, hg] using ht
  exact Bool.eq_false_iff.mpr fun hin => hj.noOverlap t hw c hinv hne _ ⟨hin, contains_ptr_add ho⟩

end

/-! #### The two transitions -/

/-- A reconstruction command reads the map and has its own backend. -/
theorem recFamily_fields {bk valid tcnt : Nat} {i : Instr} (hi : i ∈ recFamily bk valid tcnt) :
    i.isMap = true ∧ i.backend = bk := by
  simp only [recFamily, List.mem_cons, List.not_mem_nil, or_false] at hi
  rcases hi with rfl | rfl | rfl | rfl | rfl | rfl | rfl | rfl <;> exact ⟨rfl, rfl⟩

/-- A reconstruction command runs reconstruction kinds only. -/
theorem isGen_of_recFamily {bk valid tcnt np : Nat} {i : Instr} {k : Kind} (hi : i ∈ recFamily bk valid tcnt)
    (hk : kindFor i np = some k) : k.isGen = false := by
  simp only [recFamily, List.mem_cons, List.not_mem_nil, or_false] at hi
  rcases hi with rfl | rfl | rfl | rfl | rfl | rfl | rfl | rfl <;>
    simp only [kindFor, Option.ite_none_right_eq_some, Option.some.injEq] at hk
  · exact (lookupKind_some hk.2).2.1
  · exact hk ▸ rfl
  all_goals exact hk.2 ▸ rfl

/-- The two transitions of an acceptable reconstruction command on mapped memory: acceptance, then the end with the kind's
bytes stored. -/
theorem exec_reconstruction {bk valid tcnt : Nat} {k : Kind} {s : State} {i : Instr} (hi : i ∈ recFamily bk valid tcnt)
    (h : Acceptable i k s) (ha : AllMapped s.platform k s.mapOf (s.targets k.targetCount)) :
    ∃ s₁ s₂, exec i s = .next s₁ ∧ Accepted k bk s s₁ ∧ exec i s₁ = .next s₂ ∧ Completed k s s₂ ∧ s₂.gfr = s.gfr ∧
      s₂.mem = s.mem.writeAll (jobCells k s.mapOf (s.targets k.targetCount) s.mem) := by
  obtain ⟨hm, rfl⟩ := recFamily_fields hi
  obtain ⟨h₁, h₂⟩ := exec_acceptable_ends hm h ha
  exact ⟨_, _, h₁, accepted_accept s (s.latch i i.backend k), h₂, completed_finish s (s.latch i i.backend k) _ _, rfl, rfl⟩

/-- Settles O31: what the stored cells leave in the targets and outside them. -/
theorem reconstructionStoresSolution : Obligations.ReconstructionStoresSolution := by
  intro bk valid tcnt k s i hi h ha
  have hg := isGen_of_recFamily hi h.kind
  obtain ⟨s₁, s₂, h₁, hacc, h₂, hend, hgfr, hmem⟩ := exec_reconstruction hi h ha
  refine ⟨s₁, s₂, h₁, hacc, h₂, hend, hgfr, fun j hj => ?_, ?_⟩
  · have hlt : j < (s.targets k.targetCount).length := (h.job.recTargets hg).count.1.symm ▸ hj
    rw [List.getD_eq_getElem _ _ hlt, hmem]
    exact fun o => h.job.read_target hg s.mem s.mem hlt
  · rw [hmem]
    exact h.job.sameOutside s.mem s.mem

/-! #### The round trip (rule R136) -/

/-- A generation leaves parity columns that are those of the data it leaves. -/
theorem ValidJob.parityConsistent {k k' : Kind} {m : RaidzMap} (hj : ValidJob k m []) (hg : k.isGen = true)
    (hsub : ∀ p ∈ k'.parities, p ∈ k.parities) (mem : Memory) :
    ParityConsistent k' m (mem.writeAll (jobCells k m [] mem)) := by
  intro p hp o ho
  rw [parByte, hj.read_parity hg mem mem (hsub p hp) ho, (hj.agreeOnReads hg mem mem).parityValue_eq hg]

/-- Where the parities of the kind are those of the data, the closed form gives each target's padded data byte (rule R134). -/
theorem ValidJob.recSolution_data {k : Kind} {m : RaidzMap} {targets : List Nat} (hj : ValidJob k m targets)
    (hg : k.isGen = false) {mem : Memory} (hpar : ParityConsistent k m mem) {o : Nat} (ho : o < m.commonLen) :
    recSolution k m targets mem o = targets.map fun t => paddedByte m mem (t - m.np) o := by
  have ht := hj.recTargets hg
  exact ((solvesSystem_iff hj.validMap ht mem o (by rw [List.length_map, ht.count.1])).mp
    (solvesSystem_data ht hpar ho)).symm

/-- A reconstruction restores memory: where `good` has parities that fit its data and `bad` differs from it in the targets
only, what is stored makes `bad` read as `good`. -/
theorem ValidJob.restores {k : Kind} {m : RaidzMap} {targets : List Nat} (hj : ValidJob k m targets)
    (hg : k.isGen = false) {good bad : Memory} (hpar : ParityConsistent k m good)
    (hbad : ∀ a, (∀ t ∈ targets, (m.col t).contains a = false) → bad.read a = good.read a) (a : Nat) :
    (bad.writeAll (jobCells k m targets bad)).read a = good.read a := by
  by_cases hin : ∃ t ∈ targets, (m.col t).contains a = true
  · obtain ⟨t, ht, hta⟩ := hin
    obtain ⟨j, hlt, rfl⟩ := List.getElem_of_mem ht
    obtain ⟨hlo, hhi⟩ := (contains_iff _ _).mp hta
    obtain ⟨o, rfl⟩ := Nat.exists_eq_add_of_le hlo
    have ho : o < (m.col targets[j]).len := by omega
    obtain ⟨hnp, hnc⟩ := (hj.recTargets hg).inData _ ht
    have hL : o < m.commonLen := lt_of_lt_of_le ho (hj.validMap.dataLen_le hnp hnc)
    have hcol : m.dataCol (targets[j] - m.np) = m.col targets[j] := by
      rw [RaidzMap.dataCol, Nat.add_sub_cancel' hnp]
    calc (bad.writeAll (jobCells k m targets bad)).read ((m.col targets[j]).ptr + o)
        = (recSolution k m targets bad o).getD j 0 := hj.read_target hg bad bad hlt ho
      _ = (recSolution k m targets good o).getD j 0 := by
        rw [(hj.agreeOnReads_of_targets hg hbad).recSolution_eq hg hj.isGf_false hj.parities hL]
      _ = paddedByte m good (targets[j] - m.np) o := by
        rw [hj.recSolution_data hg hpar hL]
        simp [hlt]
      _ = good.read ((m.col targets[j]).ptr + o) := by
        rw [paddedByte_of_lt good (by rw [RaidzMap.len, hcol]; exact ho), dataByte, hcol]
  · have hout : ∀ t ∈ targets, (m.col t).contains a = false := fun t ht =>
      Bool.eq_false_iff.mpr fun hta => hin ⟨t, ht, hta⟩
    rw [hj.sameOutside bad bad a ?_, hbad a hout]
    intro g hgw
    obtain ⟨t, ht, rfl⟩ := List.mem_map.mp hgw
    rw [hj.validMap.span_eq]
    exact hout t (by simpa [writtenCols, hg] using ht)

/-- Settles O33: the generation leaves parities that fit the data, so the reconstruction restores what it left. -/
theorem generateThenReconstructRestores : Obligations.GenerateThenReconstructRestores := by
  intro bk bk' valid tcnt k k' s s₁ s₂ u i hi r hr h ha h₁ h₂ hmap hu hau hsub hlost
  obtain ⟨hgen, hjob⟩ := h.genJob hi
  obtain ⟨t₁, t₂, ht₁, -, ht₂, -, -, hmem⟩ := exec_generation hi h ha
  obtain rfl : t₁ = s₁ := by rw [ht₁] at h₁; exact Host.Outcome.next.inj h₁
  obtain rfl : t₂ = s₂ := by rw [ht₂] at h₂; exact Host.Outcome.next.inj h₂
  obtain ⟨u₁, u₂, hu₁, -, hu₂, hend, -, humem⟩ := exec_reconstruction hr hu hau
  have hpar : ParityConsistent k' u.mapOf t₂.mem := by
    rw [hmap, hmem]
    exact hjob.parityConsistent hgen hsub s.mem
  refine ⟨u₁, u₂, hu₁, hu₂, hend, fun a => ?_⟩
  rw [humem]
  exact hu.job.restores (isGen_of_recFamily hr hu.kind) hpar hlost a

end Sys2Proof.Machine

end

/-! ## Proofs of the backend family: what a map command's backend can change, and the lane operations composed: the product
with a constant and the kernel of GenPQR -/

section

/-! ### The same command on another backend (rules R150, R151) -/

namespace Sys2Proof

/-! #### What does not depend on the backend -/

@[simp] theorem Instr.isMap_onBackend (b : Nat) (i : Instr) : (i.onBackend b).isMap = i.isMap := by cases i <;> rfl

theorem Instr.backend_onBackend (b : Nat) {i : Instr} (hm : i.isMap = true) : (i.onBackend b).backend = b := by
  cases i
  case gfexp2 => cases hm
  case gfmul => cases hm
  all_goals rfl

end Sys2Proof

namespace Sys2Proof.Machine

@[simp] theorem selectOf_onBackend (b : Nat) (i : Instr) : selectOf (i.onBackend b) = selectOf i := by cases i <;> rfl

/-- Only map commands have a kind that `kindFor` names. -/
theorem isMap_of_kindFor {i : Instr} {np : Nat} {k : Kind} (h : kindFor i np = some k) : i.isMap = true := by
  cases i
  case gfexp2 => cases h
  case gfmul => cases h
  all_goals rfl

/-- All implemented backends share the checks before the kind. -/
theorem checksBeforeKind_congr {bk bk' : Nat} {s : State} (h : backendSupported s.platform bk = true)
    (h' : backendSupported s.platform bk' = true) : checksBeforeKind bk s = checksBeforeKind bk' s := by
  simp only [checksBeforeKind, (checkBackend_none _ s).mpr h, (checkBackend_none _ s).mpr h']

/-! #### Issue -/

/-- An issue is rejected with one fault that is the same on every implemented backend, or selects one kind, which each
implemented backend accepts or finds unaligned. -/
theorem issueMap_backends (select : State → Except Reject Kind) (s : State) :
    (∃ r, ∀ i bk, backendSupported s.platform bk = true → issueMap i bk select s = s.raiseFault r) ∨
    (∃ k, ∀ i bk, backendSupported s.platform bk = true →
      (∃ r, r.code = .unaligned ∧ issueMap i bk select s = s.raiseFault r) ∨
        issueMap i bk select s = s.accept (s.latch i bk k)) := by
  have hscalar : backendSupported s.platform 0 = true := rfl
  cases hbefore : checksBeforeKind 0 s with
  | some r =>
    exact .inl ⟨r, fun i bk hb => issueMap_reject_before (checksBeforeKind_congr hb hscalar ▸ hbefore)⟩
  | none =>
    have hpass : ∀ {bk}, backendSupported s.platform bk = true → checksBeforeKind bk s = none := fun hb =>
      checksBeforeKind_congr hb hscalar ▸ hbefore
    cases hselect : select s with
    | error r => exact .inl ⟨r, fun i bk hb => issueMap_reject_kind (hpass hb) hselect⟩
    | ok k =>
      cases hover : checkOverlap k s.mapOf (s.targets k.targetCount) with
      | some r =>
        exact .inl ⟨r, fun i bk hb => issueMap_reject_after (hpass hb) hselect (checksAfterKind_overlap hover)⟩
      | none =>
        refine .inr ⟨k, fun i bk hb => ?_⟩
        have hafter := checksAfterKind_aligned (bk := bk) ((checkOverlap_none _ _ _).mp hover)
        cases halign : checkAligned bk s k s.mapOf (s.targets k.targetCount) with
        | some r =>
          exact .inl ⟨r, checkAligned_code halign, issueMap_reject_after (hpass hb) hselect (hafter.trans halign)⟩
        | none => exact .inr (issueMap_accept (hpass hb) hselect (hafter.trans halign))

/-- Settles O38: a backend that does not exist is BAD_BACKEND; for two that exist the cases are those of
`issueMap_backends`. -/
theorem backendChangesNoOtherFault : Obligations.BackendChangesNoOtherFault := by
  intro i b s t u hm hs ht hu
  have hmb : (i.onBackend b).isMap = true := by rw [Instr.isMap_onBackend, hm]
  have hbb := Instr.backend_onBackend b hm
  cases hi : backendSupported s.platform i.backend with
  | false =>
    rw [exec_reject_before hm hs (checksBeforeKind_backend hi)] at ht
    cases ht
    exact .inl ⟨some .badBackend, by simp, .inl ⟨rfl, rfl⟩⟩
  | true =>
    cases hb : backendSupported s.platform b with
    | false =>
      rw [exec_reject_before hmb hs (checksBeforeKind_backend (hbb.symm ▸ hb))] at hu
      cases hu
      exact .inl ⟨some .badBackend, by simp, .inr ⟨rfl, rfl⟩⟩
    | true =>
      rw [exec_idle_map i hm s hs, Host.Outcome.next.injEq] at ht
      rw [exec_idle_map _ hmb s hs, hbb, selectOf_onBackend, Host.Outcome.next.injEq] at hu
      subst ht hu
      rcases issueMap_backends (selectOf i) s with ⟨r, hfault⟩ | ⟨k, hkind⟩
      · rw [hfault i _ hi, hfault _ b hb]
        exact .inr (.inl ⟨rfl, rfl⟩)
      · rcases hkind i _ hi with ⟨r, hr, ht⟩ | ht
        · rw [ht]
          exact .inl ⟨some .unaligned, by simp, .inl ⟨congrArg some hr, rfl⟩⟩
        · rcases hkind (i.onBackend b) b hb with ⟨r, hr, hu⟩ | hu
          · rw [hu]
            exact .inl ⟨some .unaligned, by simp, .inr ⟨congrArg some hr, rfl⟩⟩
          · rw [ht, hu]
            exact .inr (.inr ⟨rfl, rfl, rfl, rfl, rfl, rfl⟩)

/-! #### A run to its end -/

/-- The two transitions of an acceptable command, if they end with DONE: whatever its backend and whether or not reads were
skipped, the bytes of its kind are stored. -/
theorem exec_twice_finished {i : Instr} {k : Kind} {s s₁ s₂ : State} (h : Acceptable i k s) (h₁ : exec i s = .next s₁)
    (h₂ : exec i s₁ = .next s₂) (hf : Finished s₂) : s₁ = s.accept (s.latch i i.backend k) ∧
      s₂ = s₁.finish s.gfr (s.mem.writeAll (jobCells k s.mapOf (s.targets k.targetCount) s.mem)) := by
  have hm := isMap_of_kindFor h.kind
  obtain rfl : s.accept (s.latch i i.backend k) = s₁ := Host.Outcome.next.inj ((exec_acceptable hm h).symm.trans h₁)
  refine ⟨rfl, ?_⟩
  rw [exec_busy_map i hm _ rfl, Host.Outcome.next.injEq] at h₂
  subst h₂
  rcases endPass_cases (cellsOf i) (State.accept_latched s (s.latch i i.backend k)) with
    ⟨a, -, he⟩ | ⟨-, hraced, -⟩ | ⟨-, -, he⟩
  · rw [he] at hf
    cases hf.1
  · cases hraced
  · rw [he, ← cellsOf_eq h.kind]
    rfl

/-- Settles O37: the accepted states differ in the latch and in VCTX, and the end clears both. -/
theorem backendChangesNoResult : Obligations.BackendChangesNoResult := by
  intro i b k s s₁ s₂ u₁ u₂ h h' hs₁ hs₂ hu₁ hu₂ hfs hfu
  obtain ⟨rfl, rfl⟩ := exec_twice_finished h hs₁ hs₂ hfs
  obtain ⟨rfl, rfl⟩ := exec_twice_finished h' hu₁ hu₂ hfu
  rfl

end Sys2Proof.Machine

end
section

/-! ### A sequence of lane operations, one lane at a time (rules R153 to R158) -/

namespace Sys2Proof.Machine

/-- Lane `j` of every register: a column of the vector file. -/
def State.laneAt (s : State) (j : Nat) : Nat → Byte := fun r => (s.lanes r).getD j 0

/-- What an operation does to lane `j` of the registers, while it stores nothing. -/
def laneValue (mem : Memory) (j : Nat) (x : Nat → Byte) : LaneOp → Nat → Byte
  | .vload r a => Function.update x r (mem.read (a + j))
  | .vxor r q => Function.update x r (x r ^^^ x q)
  | .vmul2 r => Function.update x r (mul2 (x r))
  | .vmul4 r => Function.update x r (mul4 (x r))
  | .vstore _ _ => x
  | .vprefetch _ => x

/-- What a sequence of them does to lane `j`. -/
def laneRun (mem : Memory) (j : Nat) (ops : List LaneOp) (x : Nat → Byte) : Nat → Byte := ops.foldl (laneValue mem j) x

@[simp] theorem laneRun_nil (mem : Memory) (j : Nat) (x : Nat → Byte) : laneRun mem j [] x = x := rfl

@[simp] theorem laneRun_cons (mem : Memory) (j : Nat) (op : LaneOp) (ops : List LaneOp) (x : Nat → Byte) :
    laneRun mem j (op :: ops) x = laneRun mem j ops (laneValue mem j x op) := rfl

@[simp] theorem laneRun_append (mem : Memory) (j : Nat) (ops ops' : List LaneOp) (x : Nat → Byte) :
    laneRun mem j (ops ++ ops') x = laneRun mem j ops' (laneRun mem j ops x) := List.foldl_append

/-- An operation runs and stores nothing: its registers exist and every byte it loads is backed by memory. -/
def LaneOp.Computes (p : Platform) : LaneOp → Prop
  | .vload r a => r < numVregs p ∧ ∀ j, j < vbytes p → mapped p (a + j) = true
  | .vxor r q => r < numVregs p ∧ q < numVregs p
  | .vmul2 r => r < numVregs p
  | .vmul4 r => r < numVregs p
  | .vstore _ _ => False
  | .vprefetch _ => True

/-- `t` is `s` after lane operations that store nothing. -/
structure OnlyLanesDiffer (s t : State) : Prop where
  platform : t.platform = s.platform
  mem : t.mem = s.mem
  shape : FileShape t

/-! #### Sequences -/

theorem runLanes_cons_of_ok {op : LaneOp} {s t : State} (h : laneStep op s = .ok t) (rest : List LaneOp) :
    runLanes (op :: rest) s = runLanes rest t := by rw [runLanes, h]

theorem runLanes_append_of_ok {ops : List LaneOp} {s t : State} (h : runLanes ops s = .ok t) (rest : List LaneOp) :
    runLanes (ops ++ rest) s = runLanes rest t := by
  induction ops generalizing s with
  | nil => cases h; rfl
  | cons op ops ih =>
    cases hop : laneStep op s with
    | error a => simp [runLanes, hop] at h
    | ok u =>
      rw [runLanes_cons_of_ok hop] at h
      rw [List.cons_append, runLanes_cons_of_ok hop, ih h]

/-! #### One operation -/

/-- A replaced register in one lane. -/
theorem laneAt_setLanes {s : State} {r : Nat} (hr : r < s.vfile.length) (l : List Byte) (j : Nat) :
    (s.setLanes r l).laneAt j = Function.update (s.laneAt j) r (l.getD j 0) := by
  funext q
  by_cases hq : q = r
  · subst hq
    rw [Function.update_self, State.laneAt, lanes_setLanes hr]
  · rw [Function.update_of_ne hq, State.laneAt, lanes_setLanes_other s hq, State.laneAt]

/-- Replacing VBYTES lanes of a register, lane by lane. -/
theorem setLanes_lanewise {s : State} (hs : FileShape s) {r : Nat} (hr : r < numVregs s.platform) {l : List Byte}
    {f : Nat → Byte} (hl : l.length = vbytes s.platform) (hf : ∀ j, j < vbytes s.platform → l.getD j 0 = f j) :
    OnlyLanesDiffer s (s.setLanes r l) ∧
      ∀ j, j < vbytes s.platform → (s.setLanes r l).laneAt j = Function.update (s.laneAt j) r (f j) :=
  ⟨⟨rfl, rfl, fileShape_setLanes hs r hl⟩, fun j hj => by rw [laneAt_setLanes (lt_vfile_length hs hr), hf j hj]⟩

/-- An operation that computes does to each lane what `laneValue` says. -/
theorem laneStep_lanewise {op : LaneOp} {s : State} (hs : FileShape s) (hop : op.Computes s.platform) :
    ∃ t, laneStep op s = .ok t ∧ OnlyLanesDiffer s t ∧
      ∀ j, j < vbytes s.platform → t.laneAt j = laneValue s.mem j (s.laneAt j) op := by
  cases op with
  | vload r a =>
    obtain ⟨hr, hmapped⟩ := hop
    exact ⟨_, laneStep_vload hs hr hmapped, setLanes_lanewise hs hr (by simp [batch, Segment.addrs])
      fun j hj => by simp [batch, Segment.addrs, hj]⟩
  | vxor r q =>
    obtain ⟨hr, hq⟩ := hop
    have hlen := lanes_length hs hr
    have hlenq := lanes_length hs hq
    exact ⟨_, laneStep_vxor hs hr hq, setLanes_lanewise hs hr (by simp [hlen, hlenq])
      fun j hj => getD_zipWith_xor (by omega) (by omega)⟩
  | vmul2 r =>
    exact ⟨_, laneStep_vmul2 hs hop, setLanes_lanewise hs hop (by simp [lanes_length hs hop])
      fun j _ => getD_map_mul2 _ j⟩
  | vmul4 r =>
    exact ⟨_, laneStep_vmul4 hs hop, setLanes_lanewise hs hop (by simp [lanes_length hs hop])
      fun j _ => getD_map_mul4 _ j⟩
  | vstore r a => exact hop.elim
  | vprefetch a => exact ⟨s, rfl, ⟨rfl, rfl, hs⟩, fun _ _ => rfl⟩

/-! #### Sequences, lane by lane -/

/-- The lanes do not interact: a sequence that computes runs, and each lane of its result is a run of that lane alone. -/
theorem runLanes_lanewise {ops : List LaneOp} {s : State} (hs : FileShape s)
    (hops : ∀ op ∈ ops, op.Computes s.platform) : ∃ t, runLanes ops s = .ok t ∧ OnlyLanesDiffer s t ∧
      ∀ j, j < vbytes s.platform → t.laneAt j = laneRun s.mem j ops (s.laneAt j) := by
  induction ops generalizing s with
  | nil => exact ⟨s, rfl, ⟨rfl, rfl, hs⟩, fun _ _ => rfl⟩
  | cons op ops ih =>
    obtain ⟨t, hstep, ht, hlane⟩ := laneStep_lanewise hs (hops op List.mem_cons_self)
    obtain ⟨u, hrun, hu, hlanes⟩ := ih ht.shape fun o ho => ht.platform ▸ hops o (List.mem_cons_of_mem _ ho)
    refine ⟨u, (runLanes_cons_of_ok hstep ops).trans hrun,
      ⟨hu.platform.trans ht.platform, hu.mem.trans ht.mem, hu.shape⟩, fun j hj => ?_⟩
    rw [hlanes j (ht.platform ▸ hj), hlane j hj, ht.mem, laneRun_cons]

/-- The lanes of a register of the file are a given list if they are lane by lane. -/
theorem lanes_eq_of_laneAt {s : State} (hs : FileShape s) {r : Nat} (hr : r < numVregs s.platform) {l : List Byte}
    (hl : l.length = vbytes s.platform) (h : ∀ j, j < vbytes s.platform → s.laneAt j r = l.getD j 0) : s.lanes r = l := by
  have hlen := lanes_length hs hr
  refine List.ext_getElem (hlen.trans hl.symm) fun j h₁ h₂ => ?_
  simpa [State.laneAt, h₁, h₂] using h j (by omega)

/-- A number above the file names no lanes. -/
theorem lanes_of_le {s : State} (hs : FileShape s) {r : Nat} (hr : numVregs s.platform ≤ r) : s.lanes r = [] := by
  simp [State.lanes, hs.count, hr]

end Sys2Proof.Machine

end
section

/-! ### Multiplication by a constant (rule R156) -/

namespace Sys2Proof.Machine

/-! #### Single bits and doublings -/

/-- Bit `i` of a byte is `2^i` or 0. -/
theorem bitPart_eq (c : Byte) (i : Nat) : bitPart c i = if c.getLsbD i then twoPow i else 0 := by
  have single : ∀ n : Fin 8, 1#8 <<< n.val = twoPow n.val := by decide +kernel
  unfold bitPart
  split
  · next hi => exact single ⟨i, BitVec.lt_of_getLsbD hi⟩
  · rfl

/-- The bits below `n` times a byte. -/
def partialProduct (c : Byte) (n : Nat) (a : Byte) : Byte := gfmul (xorOver (bitPart c) (List.range n)) a

theorem partialProduct_zero (c a : Byte) : partialProduct c 0 a = 0 := gfmul_zero_left a

theorem partialProduct_succ (c : Byte) (n : Nat) (a : Byte) :
    partialProduct c (n + 1) a = partialProduct c n a ^^^ if c.getLsbD n then gfmul (twoPow n) a else 0 := by
  rw [partialProduct, xorOver_range_succ, gfmul_xor_left, bitPart_eq]
  split
  · rfl
  · rw [gfmul_zero_left, partialProduct]

theorem partialProduct_all (c a : Byte) : partialProduct c 8 a = gfmul c a := by rw [partialProduct, xorOver_bitPart]

/-! #### One lane of the composed sequence -/

section

variable (mem : Memory) (j : Nat) {dst tmp : Nat} (hne : dst ≠ tmp)

/-- A copy gives the destination the source's byte (rule R154). -/
theorem laneRun_copyOps {src : Nat} (h : src ≠ tmp) (x : Nat → Byte) :
    laneRun mem j (copyOps tmp src) x = Function.update x tmp (x src) := by
  simp [copyOps, laneValue, h]

include hne

/-- One bit of the constant: the running double is added if the bit is 1, then doubled. -/
theorem laneRun_mulBitOps (c : Byte) (n : Nat) (x : Nat → Byte) :
    let y := laneRun mem j (mulBitOps dst tmp c n) x
    y dst = (x dst ^^^ if c.getLsbD n then x tmp else 0) ∧ y tmp = mul2 (x tmp) ∧ ∀ r, r ≠ dst → r ≠ tmp → y r = x r := by
  cases hbit : c.getLsbD n
  · simp +contextual [mulBitOps, hbit, laneValue, hne]
  · simp +contextual [mulBitOps, hbit, laneValue, hne, hne.symm]

/-- After `n` bits the destination holds the product with the bits so far and the scratch register the running double: the
invariant of the composed multiplication. -/
theorem laneRun_mulBits (c : Byte) (n : Nat) {x : Nat → Byte} (hx : x dst = 0) :
    let y := laneRun mem j ((List.range n).flatMap (mulBitOps dst tmp c)) x
    y dst = partialProduct c n (x tmp) ∧ y tmp = gfmul (twoPow n) (x tmp) ∧ ∀ r, r ≠ dst → r ≠ tmp → y r = x r := by
  induction n with
  | zero =>
    have hone : gfmul (twoPow 0) (x tmp) = x tmp := by rw [twoPow_zero, gfmul_one_left]
    exact ⟨hx.trans (partialProduct_zero c _).symm, hone.symm, fun _ _ _ => rfl⟩
  | succ n ih =>
    obtain ⟨hdst, htmp, hother⟩ := ih
    rw [List.range_succ, List.flatMap_append, List.flatMap_singleton, laneRun_append]
    obtain ⟨hdst', htmp', hother'⟩ := laneRun_mulBitOps mem j hne c n
      (laneRun mem j ((List.range n).flatMap (mulBitOps dst tmp c)) x)
    refine ⟨?_, ?_, fun r hd ht => (hother' r hd ht).trans (hother r hd ht)⟩
    · rw [hdst', hdst, htmp, partialProduct_succ]
    · rw [htmp', htmp, gfmul_twoPow_succ]

/-- One lane of the whole sequence. -/
theorem laneRun_mulConstOps (c : Byte) {src : Nat} (hst : src ≠ tmp) (x : Nat → Byte) :
    let y := laneRun mem j (mulConstOps dst src tmp c) x
    y dst = gfmul c (x src) ∧ ∀ r, r ≠ dst → r ≠ tmp → y r = x r := by
  have hstart : laneRun mem j (copyOps tmp src ++ [.vxor dst dst]) x =
      Function.update (Function.update x tmp (x src)) dst 0 := by
    rw [laneRun_append, laneRun_copyOps mem j hst]
    simp [laneValue]
  obtain ⟨hdst, -, hother⟩ := laneRun_mulBits mem j hne c 8
    (Function.update_self dst (0 : Byte) (Function.update x tmp (x src)))
  rw [mulConstOps, laneRun_append, hstart]
  refine ⟨?_, fun r hd ht => ?_⟩
  · rw [hdst, partialProduct_all, Function.update_of_ne hne.symm, Function.update_self]
  · rw [hother r hd ht, Function.update_of_ne hd, Function.update_of_ne ht]

end

/-- The sequence names its three registers only, and stores nothing. -/
theorem mulConstOps_computes {p : Platform} {dst src tmp : Nat} (c : Byte) (hd : dst < numVregs p) (hs : src < numVregs p)
    (ht : tmp < numVregs p) : ∀ op ∈ mulConstOps dst src tmp c, op.Computes p := by
  intro op hop
  simp only [mulConstOps, copyOps, mulBitOps, List.mem_append, List.mem_cons, List.not_mem_nil, or_false,
    List.mem_flatMap] at hop
  rcases hop with ((rfl | rfl) | rfl) | ⟨n, -, hbit | rfl⟩
  · exact ⟨ht, ht⟩
  · exact ⟨ht, hs⟩
  · exact ⟨hd, hd⟩
  · split at hbit
    · obtain rfl := List.mem_singleton.mp hbit
      exact ⟨hd, ht⟩
    · cases hbit
  · exact ht

/-- Settles O40: lane by lane, by the invariant of `laneRun_mulBits`. -/
theorem laneConstantMultiply : Obligations.LaneConstantMultiply := by
  intro s dst src tmp c hs _ hdt hst hd hsrc ht
  obtain ⟨t, hrun, hsame, hlanes⟩ := runLanes_lanewise hs (mulConstOps_computes c hd hsrc ht)
  have hlane := fun j => laneRun_mulConstOps s.mem j hdt c hst (s.laneAt j)
  have hlen := lanes_length hs hsrc
  refine ⟨t, hrun, hsame.mem, ?_, fun r hrd hrt => ?_⟩
  · refine lanes_eq_of_laneAt hsame.shape (hsame.platform ▸ hd) (by simp [hlen, hsame.platform]) fun j hj => ?_
    rw [hsame.platform] at hj
    rw [hlanes j hj, (hlane j).1]
    simp [State.laneAt, hlen, hj]
  · by_cases hr : r < numVregs s.platform
    · refine lanes_eq_of_laneAt hsame.shape (hsame.platform ▸ hr) ?_ fun j hj => ?_
      · rw [hsame.platform, lanes_length hs hr]
      · rw [hlanes j (hsame.platform ▸ hj), (hlane j).2 r hrd hrt, State.laneAt]
    · rw [lanes_of_le hs (Nat.not_lt.mp hr), lanes_of_le hsame.shape (hsame.platform ▸ Nat.not_lt.mp hr)]

end Sys2Proof.Machine

end
section

/-! ### GenPQR in lane operations (rule R159) -/

namespace Sys2Proof.Machine

/-! #### The columns of a generation: mapped and aligned -/

theorem ValidMap.n_pos {m : RaidzMap} (hv : ValidMap m) : 0 < m.n := by
  obtain ⟨hcount, -⟩ := hv.columnCount
  have hdef : m.n = m.ncols - m.np := rfl
  omega

/-- Where an offset lies beyond the last column but in the first, there are two columns at least (rule R107). -/
theorem ValidMap.one_lt_n {m : RaidzMap} (hv : ValidMap m) {o : Nat} (hlong : m.shortLen ≤ o) (ho : o < m.commonLen) :
    1 < m.n := by
  by_contra hone
  have hn := hv.n_pos
  have hsame : m.shortLen = m.commonLen := congrArg m.len (by omega)
  omega

section

variable {k : Kind} {m : RaidzMap} {targets : List Nat} (hg : k.isGen = true)

include hg

/-- A byte of a data column of a generation is backed by memory. -/
theorem AllMapped.data {p : Platform} (ha : AllMapped p k m targets) {i o : Nat} (hi : i < m.n) (ho : o < m.len i) :
    mapped p ((m.dataCol i).ptr + o) = true := by
  refine ha (m.span (m.np + i)) ?_ _ (by rw [RaidzMap.span_data]; exact contains_ptr_add ho)
  exact List.mem_append_right _ (List.mem_map_of_mem (mem_readCols_of_gen hg m targets hi))

/-- So is a byte of a parity column that it writes. -/
theorem AllMapped.parity {p : Platform} (ha : AllMapped p k m targets) {q o : Nat} (hq : q ∈ k.parities) (hnp : q < m.np)
    (ho : o < m.commonLen) : mapped p ((m.col q).ptr + o) = true := by
  have hspan : (m.span q).contains ((m.span q).ptr + o) = true :=
    contains_ptr_add (by rw [RaidzMap.span_parity hnp]; exact ho)
  rw [RaidzMap.span_ptr] at hspan
  exact ha (m.span q) (List.mem_append_left _ (List.mem_map_of_mem (by simpa [writtenCols, hg] using hq))) _ hspan

/-- On an aligned map the length of a data column is a multiple of VBYTES (rule R44). -/
theorem AlignedTo.dataLen {v : Nat} (hal : AlignedTo v k m targets) {i : Nat} (hi : i < m.n) : v ∣ m.len i := by
  have hread := mem_readCols_of_gen hg m targets hi
  have hcount : m.np + i < m.ncols := by
    have hdef : m.n = m.ncols - m.np := rfl
    omega
  exact (hal (m.np + i) (by simp [involvedCols, hread, hcount])).2

end

/-- A batch that begins below a multiple of VBYTES ends below it (rule R152). -/
theorem batch_below {v o len : Nat} (ho : v ∣ o) (hlen : v ∣ len) (h : o < len) : o + v ≤ len := by
  obtain ⟨a, rfl⟩ := ho
  obtain ⟨b, rfl⟩ := hlen
  have hab : a < b := Nat.lt_of_mul_lt_mul_left h
  calc v * a + v = v * (a + 1) := (Nat.mul_succ v a).symm
    _ ≤ v * b := Nat.mul_le_mul_left v hab

/-! #### One lane of a batch: the accumulators -/

/-- The accumulators Vp, Vq, Vr in one lane. -/
def accumulators (x : Nat → Byte) : Accumulators := ⟨x 0, x 1, x 2⟩

/-- The first column is loaded and copied to the three accumulators. -/
def startOps (addr : Nat) : List LaneOp := [.vload 3 addr] ++ copyOps 0 3 ++ copyOps 1 3 ++ copyOps 2 3

/-- How many columns follow the first in a batch at offset `o`. -/
def otherCols (m : RaidzMap) (o : Nat) : Nat := if o < m.shortLen then m.n - 1 else m.n - 2

/-- The columns that follow. -/
def columnOps (m : RaidzMap) (o n : Nat) : List LaneOp :=
  (List.range n).flatMap fun i => advanceOps ++ addColumnOps ((m.dataCol (i + 1)).ptr + o)

/-- The advance for the skipped last column. -/
def skipOps (m : RaidzMap) (o : Nat) : List LaneOp := if o < m.shortLen then [] else advanceOps

/-- The stores of the three accumulators. -/
def storeOps (m : RaidzMap) (o : Nat) : List LaneOp :=
  (Kind.parities .genPQR).map fun p => .vstore p ((m.col p).ptr + o)

/-- A batch computes its accumulators, then stores them. -/
theorem genBatchOps_eq (m : RaidzMap) (o : Nat) : genBatchOps m o =
    (startOps ((m.dataCol 0).ptr + o) ++ columnOps m o (otherCols m o) ++ skipOps m o) ++ storeOps m o := rfl

section

variable (mem : Memory) (j : Nat) (x : Nat → Byte)

theorem accumulators_startOps (addr : Nat) : accumulators (laneRun mem j (startOps addr) x) =
    ⟨mem.read (addr + j), mem.read (addr + j), mem.read (addr + j)⟩ := by
  simp [accumulators, startOps, copyOps, laneValue]

theorem accumulators_advanceOps :
    accumulators (laneRun mem j advanceOps x) = (accumulators x).advance 0 := by
  simp [accumulators, advanceOps, laneValue, Accumulators.advance]

theorem accumulators_column (addr : Nat) : accumulators (laneRun mem j (advanceOps ++ addColumnOps addr) x) =
    (accumulators x).advance (mem.read (addr + j)) := by
  simp [accumulators, advanceOps, addColumnOps, laneValue, Accumulators.advance]

/-- The columns after the first advance the accumulators by their bytes, one after the other. -/
theorem accumulators_columnOps (m : RaidzMap) (o n : Nat) : accumulators (laneRun mem j (columnOps m o n) x) =
    ((List.range n).map fun i => dataByte m mem (i + 1) (o + j)).foldl Accumulators.advance (accumulators x) := by
  induction n with
  | zero => rfl
  | succ n ih =>
    rw [columnOps, List.range_succ, List.flatMap_append, List.flatMap_singleton, laneRun_append, accumulators_column,
      ← columnOps, ih, List.map_append, List.foldl_append, Nat.add_assoc]
    rfl

/-- After the first column and `n` more the accumulators are those of the recurrence (rule R102). -/
theorem accumulators_columns (m : RaidzMap) (o n : Nat) :
    accumulators (laneRun mem j (startOps ((m.dataCol 0).ptr + o) ++ columnOps m o n) x) =
      horner ((List.range (n + 1)).map fun i => dataByte m mem i (o + j)) := by
  rw [laneRun_append, accumulators_columnOps, accumulators_startOps, List.range_succ_eq_map, List.map_cons, List.map_map,
    (hornerComputesParity m mem (o + j)).2, Nat.add_assoc]
  rfl

/-- A lane of a batch holds what the two-phase computation gives at its offset (rule R107). -/
theorem accumulators_twoPhase {m : RaidzMap} {o : Nat} (hn : 0 < m.n) (hlong : m.shortLen ≤ o → 1 < m.n)
    (hshort : o < m.shortLen ↔ o + j < m.shortLen) :
    accumulators (laneRun mem j (startOps ((m.dataCol 0).ptr + o) ++ columnOps m o (otherCols m o) ++ skipOps m o) x) =
      twoPhaseAt m mem (o + j) := by
  rw [laneRun_append]
  by_cases h : o < m.shortLen
  · rw [otherCols, skipOps, if_pos h, if_pos h, laneRun_nil, accumulators_columns, twoPhaseAt, if_pos (hshort.mp h),
      Nat.sub_add_cancel hn]
  · have hmany := hlong (Nat.not_lt.mp h)
    rw [otherCols, skipOps, if_neg h, if_neg h, accumulators_advanceOps, accumulators_columns, twoPhaseAt,
      if_neg (mt hshort.mpr h), Accumulators.advance_zero, show m.n - 2 + 1 = m.n - 1 by omega]

end

/-! #### The stores -/

/-- Several registers are stored one after the other, lane by lane; the registers stay as they are. -/
theorem runLanes_stores {s : State} (hs : FileShape s) (addr : Nat → Nat) {regs : List Nat}
    (h : ∀ r ∈ regs, r < numVregs s.platform ∧ ∀ j, j < vbytes s.platform → mapped s.platform (addr r + j) = true) :
    ∃ t, runLanes (regs.map fun r => .vstore r (addr r)) s = .ok t ∧ t.platform = s.platform ∧ t.vfile = s.vfile ∧
      t.mem = s.mem.writeAll (regs.flatMap fun r => (List.range (vbytes s.platform)).map fun j =>
        (addr r + j, s.laneAt j r)) := by
  induction regs generalizing s with
  | nil => exact ⟨s, rfl, rfl, rfl, rfl⟩
  | cons r regs ih =>
    obtain ⟨hr, hmapped⟩ := h r List.mem_cons_self
    obtain ⟨t, hstep, hp, hf, hmem⟩ : ∃ t, laneStep (.vstore r (addr r)) s = .ok t ∧ t.platform = s.platform ∧
        t.vfile = s.vfile ∧ t.mem = s.mem.writeAll ((List.range (vbytes s.platform)).map fun j =>
          (addr r + j, s.laneAt j r)) := ⟨_, laneStep_vstore hs hr hmapped, rfl, rfl, rfl⟩
    obtain ⟨u, hrun, hp', hf', hmem'⟩ := ih (fileShape_congr hp hf hs) fun q hq =>
      hp ▸ h q (List.mem_cons_of_mem _ hq)
    refine ⟨u, (runLanes_cons_of_ok hstep _).trans hrun, hp'.trans hp, hf'.trans hf, ?_⟩
    rw [hmem', hmem, hp, List.flatMap_cons, Memory.writeAll_append]
    simp only [State.laneAt, State.lanes, hf]

/-- The cells that a batch of VBYTES = `v` lanes at offset `o` stores. -/
def batchCells (v : Nat) (m : RaidzMap) (mem : Memory) (o : Nat) : List Host.Cell :=
  (Kind.parities .genPQR).flatMap fun p => (List.range v).map fun j =>
    ((m.col p).ptr + (o + j), parityValue p m mem (o + j))

/-- What each of the three columns holds by rule R101 is an accumulator of the recurrence. -/
theorem accumulators_eq_hornerAt {m : RaidzMap} {mem : Memory} {o : Nat} {x : Nat → Byte}
    (h : accumulators x = hornerAt m mem o) {p : Nat} (hp : p ∈ Kind.parities .genPQR) : x p = parityValue p m mem o := by
  rw [(hornerComputesParity m mem o).1, accumulators, Accumulators.mk.injEq] at h
  obtain ⟨h0, h1, h2⟩ := h
  simp only [Kind.parities, List.mem_cons, List.not_mem_nil, or_false] at hp
  rcases hp with rfl | rfl | rfl
  · exact h0
  · exact h1
  · exact h2

/-! #### A batch, and all of them -/

/-- Cells that hold what `final` reads as make their addresses read so. -/
theorem Memory.read_writeAll_of_final {final : Memory} {cs : List Host.Cell} (h : ∀ c ∈ cs, c.2 = final.read c.1)
    (mem : Memory) (a : Nat) :
    (mem.writeAll cs).read a = if ∃ c ∈ cs, c.1 = a then final.read a else mem.read a := by
  split
  · next hin =>
    obtain ⟨c, hc, rfl⟩ := hin
    refine Memory.read_writeAll_mem cs mem _ _ (h c hc ▸ hc) fun d hd hdc => ?_
    rw [h d hd, hdc]
  · next hout => exact Memory.read_writeAll_other cs mem a fun c hc hca => hout ⟨c, hc, hca⟩

section

variable {m : RaidzMap} (hj : ValidJob .genPQR m [])

include hj

/-- What a batch stores is what the command leaves there. -/
theorem ValidJob.batchCells_final (mem : Memory) {v o : Nat} (ho : o + v ≤ m.commonLen) :
    ∀ c ∈ batchCells v m mem o, c.2 = (mem.writeAll (jobCells .genPQR m [] mem)).read c.1 := by
  intro c hc
  obtain ⟨p, hp, hcell⟩ := List.mem_flatMap.mp hc
  obtain ⟨j, hjv, rfl⟩ := List.mem_map.mp hcell
  have hlt := List.mem_range.mp hjv
  exact (hj.read_parity rfl mem mem hp (by omega)).symm

/-- Storing such cells changes no byte that a generation reads. -/
theorem ValidJob.agreeOnReads_of_final {mem start : Memory} (h : AgreeOnReads .genPQR m [] mem start)
    {cs : List Host.Cell} (hcs : ∀ c ∈ cs, c.2 = (start.writeAll (jobCells .genPQR m [] start)).read c.1) :
    AgreeOnReads .genPQR m [] (mem.writeAll cs) start := by
  intro c hc o ho
  rw [Memory.read_writeAll_of_final hcs]
  split
  · exact hj.agreeOnReads rfl start start c hc o ho
  · exact h c hc o ho

/-- On an aligned map each cell that the command stores is stored by a batch. -/
theorem ValidJob.mem_batchCells {v : Nat} (hv : 0 < v) (hal : AlignedTo v .genPQR m []) {mem : Memory} {c : Host.Cell}
    (hc : c ∈ jobCells .genPQR m [] mem) : c ∈ (batchOffsets v m).flatMap (batchCells v m mem) := by
  rw [jobCells_gen .genPQR m mem rfl] at hc
  obtain ⟨p, hp, hcell⟩ := List.mem_flatMap.mp hc
  obtain ⟨x, hx, rfl⟩ := List.mem_map.mp hcell
  have hdiv : x / v < m.commonLen / v :=
    Nat.div_lt_div_of_lt_of_dvd (hal.dataLen rfl hj.validMap.n_pos) (List.mem_range.mp hx)
  have hsplit : x / v * v + x % v = x := Nat.div_add_mod' x v
  refine List.mem_flatMap.mpr ⟨x / v * v, List.mem_map.mpr ⟨x / v, List.mem_range.mpr hdiv, rfl⟩, ?_⟩
  refine List.mem_flatMap.mpr ⟨p, hp, List.mem_map.mpr ⟨x % v, List.mem_range.mpr (Nat.mod_lt x hv), ?_⟩⟩
  rw [hsplit]

end

/-- The engine can run the kernel on the map: it has the four registers, and the map is aligned and backed by memory. -/
structure KernelRuns (m : RaidzMap) (s : State) : Prop where
  shape : FileShape s
  registers : 4 ≤ numVregs s.platform
  aligned : AlignedTo (vbytes s.platform) .genPQR m []
  backed : AllMapped s.platform .genPQR m []

/-- This depends on the platform and the shape of the file only. -/
theorem KernelRuns.congr {m : RaidzMap} {s t : State} (h : KernelRuns m s) (hp : t.platform = s.platform)
    (ht : FileShape t) : KernelRuns m t where
  shape := ht
  registers := hp ▸ h.registers
  aligned := hp ▸ h.aligned
  backed := hp ▸ h.backed

theorem KernelRuns.shortLen_aligned {m : RaidzMap} {s : State} (h : KernelRuns m s) (hj : ValidJob .genPQR m []) :
    vbytes s.platform ∣ m.shortLen :=
  h.aligned.dataLen rfl (Nat.sub_one_lt_of_lt hj.validMap.n_pos)

/-- An offset at which a whole batch lies in every column of the common length (rule R152). -/
structure BatchAt (v : Nat) (m : RaidzMap) (o : Nat) : Prop where
  aligned : v ∣ o
  below : o + v ≤ m.commonLen

theorem batchAt_of_mem {v : Nat} {m : RaidzMap} {o : Nat} (ho : o ∈ batchOffsets v m) : BatchAt v m o := by
  obtain ⟨q, hq, rfl⟩ := List.mem_map.mp ho
  refine ⟨Nat.dvd_mul_left v q, ?_⟩
  calc q * v + v = (q + 1) * v := (Nat.succ_mul q v).symm
    _ ≤ m.commonLen / v * v := Nat.mul_le_mul_right v (List.mem_range.mp hq)
    _ ≤ m.commonLen := Nat.div_mul_le_self m.commonLen v

section

variable {p : Platform} (h4 : 4 ≤ numVregs p)

include h4

theorem startOps_computes {addr : Nat} (h : ∀ j, j < vbytes p → mapped p (addr + j) = true) :
    ∀ op ∈ startOps addr, op.Computes p := by
  intro op hop
  simp only [startOps, copyOps, List.mem_append, List.mem_cons, List.not_mem_nil, or_false] at hop
  rcases hop with ((rfl | rfl | rfl) | rfl | rfl) | rfl | rfl
  case inl.inl.inl => exact ⟨h4, h⟩
  all_goals exact ⟨by omega, by omega⟩

theorem advanceOps_computes : ∀ op ∈ advanceOps, op.Computes p := by
  intro op hop
  simp only [advanceOps, List.mem_cons, List.not_mem_nil, or_false] at hop
  rcases hop with rfl | rfl
  · exact lt_of_lt_of_le (by decide) h4
  · exact lt_of_lt_of_le (by decide) h4

theorem addColumnOps_computes {addr : Nat} (h : ∀ j, j < vbytes p → mapped p (addr + j) = true) :
    ∀ op ∈ addColumnOps addr, op.Computes p := by
  intro op hop
  simp only [addColumnOps, List.mem_cons, List.not_mem_nil, or_false] at hop
  rcases hop with rfl | rfl | rfl | rfl
  · exact ⟨h4, h⟩
  all_goals exact ⟨by omega, by omega⟩

theorem columnOps_computes {m : RaidzMap} {o n : Nat}
    (h : ∀ i, i < n → ∀ j, j < vbytes p → mapped p ((m.dataCol (i + 1)).ptr + o + j) = true) :
    ∀ op ∈ columnOps m o n, op.Computes p := by
  intro op hop
  obtain ⟨i, hi, hop⟩ := List.mem_flatMap.mp hop
  rcases List.mem_append.mp hop with hop | hop
  · exact advanceOps_computes h4 op hop
  · exact addColumnOps_computes h4 (h i (List.mem_range.mp hi)) op hop

theorem skipOps_computes (m : RaidzMap) (o : Nat) : ∀ op ∈ skipOps m o, op.Computes p := by
  unfold skipOps
  split
  · exact fun op hop => by cases hop
  · exact advanceOps_computes h4

end

section

variable {m : RaidzMap} (hj : ValidJob .genPQR m []) {s : State} (hk : KernelRuns m s) {o : Nat}
  (ho : BatchAt (vbytes s.platform) m o)

include hj hk ho

/-- A column that a batch at the offset adds reaches beyond the batch: each one below `S`, all but the last from there on. -/
theorem KernelRuns.column_mapped {i : Nat} (hi : i < otherCols m o + 1) {j : Nat} (hjv : j < vbytes s.platform) :
    mapped s.platform ((m.dataCol i).ptr + o + j) = true := by
  have hn := hj.validMap.n_pos
  have hlast : m.shortLen = m.len (m.n - 1) := rfl
  have hbelow := ho.below
  suffices i < m.n ∧ o + j < m.len i by
    rw [Nat.add_assoc]
    exact hk.backed.data rfl this.1 this.2
  by_cases hbig : i + 1 < m.n
  · rw [hj.validMap.bigLen i hbig]
    omega
  · unfold otherCols at hi
    split at hi
    · next hshort =>
      have := batch_below ho.aligned (hk.shortLen_aligned hj) hshort
      obtain rfl : i = m.n - 1 := by omega
      omega
    · next hlong =>
      have := hj.validMap.one_lt_n (Nat.not_lt.mp hlong) (by omega)
      omega

/-- The operations of a batch before its stores compute. -/
theorem KernelRuns.computes :
    ∀ op ∈ startOps ((m.dataCol 0).ptr + o) ++ columnOps m o (otherCols m o) ++ skipOps m o, op.Computes s.platform := by
  intro op hop
  rcases List.mem_append.mp hop with hop | hop
  · rcases List.mem_append.mp hop with hop | hop
    · exact startOps_computes hk.registers (fun j => hk.column_mapped hj ho (Nat.succ_pos _)) op hop
    · exact columnOps_computes hk.registers (fun i hi j => hk.column_mapped hj ho (Nat.succ_lt_succ hi)) op hop
  · exact skipOps_computes hk.registers m o op hop

/-- In each lane of a batch the accumulators are those of the recurrence on padded bytes (rules R102, R107). -/
theorem KernelRuns.accumulators_eq {j : Nat} (hjv : j < vbytes s.platform) (mem : Memory) (x : Nat → Byte) :
    accumulators (laneRun mem j (startOps ((m.dataCol 0).ptr + o) ++ columnOps m o (otherCols m o) ++ skipOps m o) x) =
      hornerAt m mem (o + j) := by
  have hn := hj.validMap.n_pos
  have hbelow := ho.below
  rw [← twoPhaseComputesParity m mem (o + j) hj.validMap (by omega)]
  refine accumulators_twoPhase mem j x hn (fun hlong => hj.validMap.one_lt_n hlong (by omega))
    ⟨fun hshort => ?_, fun h => by omega⟩
  have := batch_below ho.aligned (hk.shortLen_aligned hj) hshort
  omega

/-- A batch runs and stores its cells. -/
theorem KernelRuns.runLanes_batch : ∃ t, runLanes (genBatchOps m o) s = .ok t ∧ t.platform = s.platform ∧ FileShape t ∧
    t.mem = s.mem.writeAll (batchCells (vbytes s.platform) m s.mem o) := by
  obtain ⟨u, hrun, hu, hlanes⟩ := runLanes_lanewise hk.shape (hk.computes hj ho)
  have hbelow := ho.below
  have hstore : ∀ r ∈ Kind.parities .genPQR, r < numVregs u.platform ∧
      ∀ j, j < vbytes u.platform → mapped u.platform ((m.col r).ptr + o + j) = true := by
    rw [hu.platform]
    intro r hr
    have hnp := hj.parities r hr
    have h3 := hj.validMap.parityCount.2
    have h4 := hk.registers
    refine ⟨by omega, fun j hjv => ?_⟩
    rw [Nat.add_assoc]
    exact hk.backed.parity rfl hr hnp (by omega)
  obtain ⟨t, hrun', hp, hf, hmem⟩ := runLanes_stores hu.shape (fun r => (m.col r).ptr + o) hstore
  refine ⟨t, ?_, hp.trans hu.platform, fileShape_congr hp hf hu.shape, ?_⟩
  · rw [genBatchOps_eq, runLanes_append_of_ok hrun]
    exact hrun'
  · rw [hmem, hu.mem, hu.platform, batchCells]
    refine congrArg _ (List.flatMap_congr fun r hr => List.map_congr_left fun j hjv => ?_)
    have hlt := List.mem_range.mp hjv
    rw [hlanes j hlt, accumulators_eq_hornerAt (hk.accumulators_eq hj ho hlt s.mem (s.laneAt j)) hr, Nat.add_assoc]

end

/-- The batches run one after the other, each storing what it stores on the memory before the first. -/
theorem KernelRuns.runLanes_batches {m : RaidzMap} (hj : ValidJob .genPQR m []) {start : Memory} {offsets : List Nat}
    {s : State} (hk : KernelRuns m s) (hoff : ∀ o ∈ offsets, BatchAt (vbytes s.platform) m o)
    (hagree : AgreeOnReads .genPQR m [] s.mem start) : ∃ t, runLanes (offsets.flatMap (genBatchOps m)) s = .ok t ∧
      t.mem = s.mem.writeAll (offsets.flatMap (batchCells (vbytes s.platform) m start)) := by
  induction offsets generalizing s with
  | nil => exact ⟨s, rfl, rfl⟩
  | cons o offsets ih =>
    have ho := hoff o List.mem_cons_self
    obtain ⟨t, hrun, hp, ht, hmem⟩ := hk.runLanes_batch hj ho
    have hcells : batchCells (vbytes s.platform) m s.mem o = batchCells (vbytes s.platform) m start o :=
      List.flatMap_congr fun p _ => List.map_congr_left fun j _ => by rw [hagree.parityValue_eq rfl]
    rw [hcells] at hmem
    have hagree' : AgreeOnReads .genPQR m [] t.mem start :=
      hmem ▸ hj.agreeOnReads_of_final hagree (hj.batchCells_final start ho.below)
    obtain ⟨u, hrun', hmem'⟩ := ih (hk.congr hp ht) (fun q hq => hp ▸ hoff q (List.mem_cons_of_mem _ hq)) hagree'
    refine ⟨u, ?_, ?_⟩
    · rw [List.flatMap_cons, runLanes_append_of_ok hrun, hrun']
    · rw [hmem', hp, hmem, List.flatMap_cons, Memory.writeAll_append]

/-- Settles O41: the batches store the cells of the command and no others. -/
theorem laneKernelGeneratesParity : Obligations.LaneKernelGeneratesParity := by
  intro s m hs h4 hj hal ha
  have hbatch : ∀ o ∈ batchOffsets (vbytes s.platform) m, BatchAt (vbytes s.platform) m o := fun _ => batchAt_of_mem
  obtain ⟨t, hrun, hmem⟩ := KernelRuns.runLanes_batches hj (start := s.mem) ⟨hs, h4, hal, ha⟩ hbatch
    fun _ _ _ _ => rfl
  have hfinal : ∀ c ∈ (batchOffsets (vbytes s.platform) m).flatMap (batchCells (vbytes s.platform) m s.mem),
      c.2 = (s.mem.writeAll (jobCells .genPQR m [] s.mem)).read c.1 := by
    intro c hc
    obtain ⟨o, ho, hcell⟩ := List.mem_flatMap.mp hc
    exact hj.batchCells_final s.mem (hbatch o ho).below c hcell
  refine ⟨t, hrun, fun a => ?_⟩
  rw [hmem, Memory.read_writeAll_of_final hfinal]
  split
  · rfl
  · next hout =>
    exact (Memory.read_writeAll_other _ s.mem a fun c hc hca =>
      hout ⟨c, hj.mem_batchCells (Nat.two_pow_pos _) hal hc, hca⟩).symm

end Sys2Proof.Machine

end

/-! ## Proofs of the control family: the soft reset, the acknowledge, and the WAIT that follows a command -/

section

/-! ### CTRL: soft reset and acknowledge (rules R171, R172) -/

namespace Sys2Proof.Machine

theorem sameDescriptor_softReset (s : State) : SameDescriptor s s.softReset := by
  constructor <;> rfl

theorem sameDescriptor_ack (s : State) : SameDescriptor s s.ack := by
  constructor <;> rfl

theorem sameHostSide_ack (s : State) : SameHostSide s s.ack := by
  constructor <;> rfl

/-- Settles O50: a write of bit 0 is the soft reset, which scrambles the write set of an abandoned command only. -/
theorem softReset : Obligations.SoftReset := by
  intro s
  obtain ⟨hreset, -, -, -⟩ := controlRegister s 1
  exact ⟨s.softReset, hreset (by decide), rfl, statusWord_zero rfl rfl rfl rfl rfl rfl, rfl, rfl, rfl, ⟨s.freeCtr, rfl⟩,
    sameDescriptor_softReset s, rfl, scrambled_read_other s⟩

/-- Settles O51: a write of bit 1 without bit 0 is the acknowledge. -/
theorem ackClearsDoneOnly : Obligations.AckClearsDoneOnly := by
  intro s
  obtain ⟨-, hack, -, -⟩ := controlRegister s 2
  exact ⟨s.ack, hack (by decide) (by decide), rfl, rfl, rfl, rfl, rfl, rfl, rfl, rfl, rfl, rfl, sameDescriptor_ack s,
    sameHostSide_ack s⟩

end Sys2Proof.Machine

end
section

/-! ### The WAIT after a CMD write (rules R66, R173, R184) -/

namespace Sys2Proof.Machine

/-- A word written to CMD in IDLE raises one fault or makes the engine BUSY with a command (rules R62, R65). -/
theorem issueWord_cases (w : Word) {s : State} (hs : s.seq = .idle) :
    (∃ r, issueWord w s = .next (s.raiseFault r)) ∨ ∃ l, issueWord w s = .next (s.accept l) := by
  unfold issueWord
  split
  · next i _ =>
    obtain ⟨t, he⟩ := exec_next i s
    rcases exec_idle_cases i hs he with ⟨r, rfl⟩ | ⟨bk, k, rfl⟩
    · exact .inl ⟨r, he⟩
    · exact .inr ⟨s.latch i bk k, he⟩
  · exact .inl ⟨_, rfl⟩

/-- The engine's move ends the latched command, with BUS_ERROR or with DONE. -/
theorem engineStep_ends {s : State} {l : Latch} (hs : s.seq = .busy) (hl : s.latched = some l) :
    (∃ a, engineStep s = .next (s.busError a)) ∨ ∃ g m, engineStep s = .next (s.finish g m) := by
  rw [engineStep_latched hs hl]
  obtain ⟨t, he⟩ := exec_next l.instr s
  rcases exec_busy_cases l.instr hs he with ⟨hn, -⟩ | ⟨a, rfl⟩ | ⟨g, m, rfl⟩
  · simp [hl] at hn
  · exact .inl ⟨a, he⟩
  · exact .inr ⟨g, m, he⟩

/-- A run goes on from the state that its first step answers. -/
theorem run_succ {M : Host.Core} {s t : M.State} (h : M.step s = .next t) (n : Nat) : M.run (n + 1) s = M.run n t := by
  rw [Host.Core.run, h]

/-- The command that was issued has ended: DONE in IDLE, or FAULT without DONE (rules R16, R173). -/
def Ended (s : State) : Prop := (Finished s ∧ ¬Failed s) ∨ (Failed s ∧ s.done = false)

theorem ended_raiseFault (s : State) (r : Reject) : Ended (s.raiseFault r) := .inr ⟨rfl, rfl⟩

theorem ended_finish (s : State) (g : Word) (m : Memory) : Ended (s.finish g m) :=
  .inl ⟨⟨rfl, rfl⟩, fun h => by cases h⟩

theorem ended_busError {s : State} (h : s.done = false) (a : Nat) : Ended (s.busError a) := .inr ⟨rfl, h⟩

theorem Ended.not_busy {s : State} (h : Ended s) : s.seq ≠ .busy := by
  rcases h with ⟨⟨hs, -⟩, -⟩ | ⟨hs, -⟩
  · simp [hs]
  · rw [hs]
    simp

/-- The command has ended and the host has nothing left but its WAIT: the next step is the poll that ends it. -/
structure PollNext (s : State) : Prop where
  ended : Ended s
  held : s.held = []
  inputs : s.inputs = [.wait]

/-- The poll reads STATUS and changes nothing of the engine. -/
theorem PollNext.step_eq {s : State} (h : PollNext s) : step s = .next (hostRead 2 (s.withInputs [])) :=
  step_input h.ended.not_busy h.held h.inputs

/-- After the poll the machine pauses. -/
theorem PollNext.step_polled {s : State} (h : PollNext s) :
    step (hostRead 2 (s.withInputs [])) = .next (hostRead 2 (s.withInputs [])) :=
  step_quiet (s := hostRead 2 (s.withInputs [])) h.ended.not_busy h.held rfl

/-- With the WAIT left to do, the poll comes next after the issue of a rejected command, and after the engine's move of an
accepted one. -/
theorem pollNext_of_issueWord (w : Word) {s : State} (hs : s.seq = .idle) (hh : s.held = []) (hi : s.inputs = [.wait]) :
    ∃ u, PollNext u ∧ (issueWord w s = .next u ∨ ∃ b, issueWord w s = .next b ∧ step b = .next u) := by
  rcases issueWord_cases w hs with ⟨r, hr⟩ | ⟨l, hacc⟩
  · exact ⟨s.raiseFault r, ⟨ended_raiseFault s r, hh, hi⟩, .inl hr⟩
  · have hmove : step (s.accept l) = engineStep (s.accept l) := step_engine (s.accept_seq l) (.inr ⟨[], hi⟩)
    rcases engineStep_ends (s.accept_seq l) (s.accept_latched l) with ⟨a, hend⟩ | ⟨g, m, hend⟩
    · exact ⟨(s.accept l).busError a, ⟨ended_busError (s.accept_done l) a, hh, hi⟩,
        .inr ⟨s.accept l, hacc, hmove.trans hend⟩⟩
    · exact ⟨(s.accept l).finish g m, ⟨ended_finish (s.accept l) g m, hh, hi⟩,
        .inr ⟨s.accept l, hacc, hmove.trans hend⟩⟩

/-- Settles O53: a rejected command leaves the third step to a pause, an accepted one to the poll. -/
theorem waitEndsWithDoneOrFault : Obligations.WaitEndsWithDoneOrFault := by
  intro s w _ hs hh hi
  have hwrite : step s = issueWord w (s.withInputs [.wait]) := step_issueWord hs hh hi
  obtain ⟨u, hu, hrun⟩ := pollNext_of_issueWord w (s := s.withInputs [.wait]) hs hh rfl
  refine ⟨hostRead 2 (u.withInputs []), ?_, rfl, rfl, hu.ended⟩
  rcases hrun with hissue | ⟨b, hissue, hmove⟩
  · rw [run_succ (M := core) (hwrite.trans hissue), run_succ (M := core) hu.step_eq, run_succ (M := core) hu.step_polled]
    rfl
  · rw [run_succ (M := core) (hwrite.trans hissue), run_succ (M := core) hmove, run_succ (M := core) hu.step_eq]
    rfl

end Sys2Proof.Machine

end

/-! ## Proofs of the exceptions family: what a fault at issue changes, the parity count and the map checks, BUS_ERROR, and the
sticky FAULT -/

section

/-! ### Faults at issue (rules R182, R183, R186, R187) -/

namespace Sys2Proof.Machine

/-- Settles O14: of the two things an issue can do, raising a fault is the one that ends in FAULT. -/
theorem issueFaultChangesOnlyTheRecord : Obligations.IssueFaultChangesOnlyTheRecord := by
  intro s t w rest hc hs hh hi he ht
  have hbusy : s.seq ≠ .busy := by simp [hs]
  have hissue : issueWord w (s.withInputs rest) = .next t := (step_issueWord hs hh hi).symm.trans he
  rcases issueWord_cases w (s := s.withInputs rest) hs with ⟨r, hr⟩ | ⟨l, hl⟩
  · cases hr.symm.trans hissue
    exact ⟨⟨r.code, rfl⟩, rfl, rfl, rfl, hc.vctx_false hbusy, hc.latched_none hbusy,
      (sameDescriptor_withInputs s rest).trans (sameDescriptor_raiseFault _ r), rfl, rfl, rfl, hh, rfl, rfl⟩
  · cases hl.symm.trans hissue
    cases ht

/-! #### The checks in their order (rule R186) -/

/-- The parity count is the second check. -/
theorem checksBeforeKind_parityCount {bk : Nat} {s : State} {r : Reject} (hb : backendSupported s.platform bk = true)
    (h : checkParityCount s = some r) : checksBeforeKind bk s = some r := by
  simp [checksBeforeKind, (checkBackend_none bk s).mpr hb, h]

/-- The map is the third. -/
theorem checksBeforeKind_map {bk : Nat} {s : State} {r : Reject} (hb : backendSupported s.platform bk = true)
    (hp : checkParityCount s = none) (h : checkMap s = some r) : checksBeforeKind bk s = some r := by
  simp [checksBeforeKind, (checkBackend_none bk s).mpr hb, hp, h]

/-- BAD_PARITY_COUNT reports the 64-bit NPARITY (rule R182). -/
theorem checkParityCount_some {s : State} (h : ¬(1 ≤ s.nparity.toNat ∧ s.nparity.toNat ≤ 3)) :
    checkParityCount s = some ⟨.badParityCount, s.nparity⟩ :=
  if_neg h

/-- Settles O16: the parity count is looked at before the map. -/
theorem badParityCountFaults : Obligations.BadParityCountFaults := by
  intro i s hm hs hb h1 h2 h3
  have hbad : ¬(1 ≤ s.nparity.toNat ∧ s.nparity.toNat ≤ 3) := by bv_omega
  exact ⟨_, exec_reject_before hm hs (checksBeforeKind_parityCount hb (checkParityCount_some hbad)), rfl, rfl, rfl⟩

/-! #### The first defect of a map (rule R183) -/

theorem checkMap_columnCount {s : State}
    (h : s.mapOf.ncols < s.mapOf.np + 1 ∨ s.mapOf.np + 255 < s.mapOf.ncols) :
    checkMap s = some (reject .mapInvalid (1 * 2 ^ 16)) := by
  rw [mapOf_ncols, mapOf_np] at h
  exact if_pos h

theorem checkMap_columnShift {s : State} (hlo : s.mapOf.np + 1 ≤ s.mapOf.ncols) (hhi : s.mapOf.ncols ≤ s.mapOf.np + 255)
    (h : 64 ≤ s.mapOf.colshift) : checkMap s = some (reject .mapInvalid (2 * 2 ^ 16)) := by
  rw [mapOf_ncols, mapOf_np] at hlo hhi
  exact (if_neg (by omega)).trans (if_pos h)

/-- The columns are looked at in ascending order. -/
theorem checkMap_column {s : State} (hlo : s.mapOf.np + 1 ≤ s.mapOf.ncols) (hhi : s.mapOf.ncols ≤ s.mapOf.np + 255)
    (hshift : s.mapOf.colshift < 64) {c sub : Nat} (hc : c < s.mapOf.ncols) (hdefect : columnDefect s.mapOf c = some sub)
    (hmin : ∀ c', c' < c → columnDefect s.mapOf c' = none) :
    checkMap s = some (reject .mapInvalid (sub * 2 ^ 16 + c)) := by
  rw [mapOf_ncols] at hc hlo hhi
  rw [mapOf_np] at hlo hhi
  rw [mapOf_colshift] at hshift
  rw [checkMap, if_neg (by omega), if_neg (by omega)]
  exact findSome?_ascending List.pairwise_lt_range (List.mem_range.mpr hc) (by rw [hdefect, Option.map_some])
    fun c' _ hlt => by rw [hmin c' hlt, Option.map_none]

/-- With NPARITY in range the answer of the map check is the fault of the command. -/
theorem exec_mapInvalid {i : Instr} {s : State} (hm : i.isMap = true) (hs : s.seq = .idle)
    (hb : backendSupported s.platform i.backend = true) (hp : checkParityCount s = none) {info : Nat}
    (h : checkMap s = some (reject .mapInvalid info)) :
    ∃ t, exec i s = .next t ∧ t.seq = .fault ∧ t.fcode = some .mapInvalid ∧ t.finfo = BitVec.ofNat 64 info :=
  ⟨_, exec_reject_before hm hs (checksBeforeKind_map hb hp h), rfl, rfl, rfl⟩

/-- The sub-checks 3, 4, 5 of a column as rule R183 words them, by its distance from the last column. -/
theorem columnDefect_eq {m : RaidzMap} (h : 1 ≤ m.ncols) (c : Nat) : columnDefect m c =
    if c < m.np ∧ (m.col c).len ≠ m.commonLen then some 3
    else if m.np ≤ c ∧
      ((c < m.ncols - 1 ∧ (m.col c).len ≠ m.commonLen) ∨ (c = m.ncols - 1 ∧ (m.col c).len > m.commonLen)) then some 4
    else if (m.col c).len % 2 ^ m.colshift ≠ 0 then some 5
    else none := by
  have hbig : c < m.ncols - 1 ↔ c + 1 < m.ncols := by omega
  have hlast : c = m.ncols - 1 ↔ c + 1 = m.ncols := by omega
  simp only [columnDefect, hbig, hlast, gt_iff_lt]

/-- Settles O17: the column count, the column-shift, then the columns in order, each with its three sub-checks in order. -/
theorem mapInvalidReportsFirstDefect : Obligations.MapInvalidReportsFirstDefect := by
  intro i s hm hs hb hlo hhi m sub3 sub4 sub5 faults
  have hfault : ∀ {info}, checkMap s = some (reject .mapInvalid info) → faults info :=
    exec_mapInvalid hm hs hb ((checkParityCount_none s).mpr ⟨hlo, hhi⟩)
  refine ⟨fun h => hfault (checkMap_columnCount h), fun h1 h2 h => hfault (checkMap_columnShift h1 h2 h),
    fun h1 h2 hshift c hc hmin => ?_⟩
  have hdefect := columnDefect_eq (m := m) (by omega)
  have hnone : ∀ c', c' < c → columnDefect m c' = none := fun c' hlt => by
    obtain ⟨h3, h4, h5⟩ := hmin c' hlt
    rw [hdefect, if_neg h3, if_neg h4, if_neg h5]
  have hcolumn : ∀ {sub}, columnDefect m c = some sub → faults (sub * 2 ^ 16 + c) := fun hsub =>
    hfault (checkMap_column h1 h2 hshift hc hsub hnone)
  refine ⟨fun h3 => hcolumn ?_, fun h3 h4 => hcolumn ?_, fun h3 h4 h5 => hcolumn ?_⟩
  · rw [hdefect, if_pos h3]
  · rw [hdefect, if_neg h3, if_pos h4]
  · rw [hdefect, if_neg h3, if_neg h4, if_pos h5]

end Sys2Proof.Machine

end
section

/-! ### BUS_ERROR in the data pass (rules R43, R47, R184) -/

namespace Sys2Proof.Machine

/-- The address that a BUS_ERROR reports is one of the given. -/
theorem pickAddress_mem (ctr : Nat) {l : List Nat} (h : l ≠ []) : pickAddress ctr l ∈ l := by
  match l with
  | [] => exact absurd rfl h
  | [a] => exact List.mem_singleton_self a
  | a :: b :: rest =>
    have hlt : Config.freePick ctr % (rest.length + 2) < (a :: b :: rest).length := Nat.mod_lt _ (by simp)
    rw [pickAddress, List.getD_eq_getElem _ _ hlt]
    exact List.getElem_mem hlt

/-- A read that cannot be skipped is a read. -/
theorem readSpans_of_mustReadSpans {k : Kind} {m : RaidzMap} {targets : List Nat} {a : Nat}
    (h : ∃ g ∈ mustReadSpans k m targets, g.contains a = true) : ∃ g ∈ readSpans k m targets, g.contains a = true := by
  obtain ⟨g', hg', ha⟩ := h
  obtain ⟨g, hg, rfl⟩ := List.mem_map.mp hg'
  refine ⟨g, hg, (contains_iff g a).mpr ?_⟩
  obtain ⟨hlo, hhi⟩ := (contains_iff _ a).mp ha
  dsimp only at hlo hhi
  omega

/-- The access set of a latch is what it reads and what it writes (rule R47). -/
theorem accessSet_iff (l : Latch) (a : Nat) :
    (∃ g ∈ writeSpans l.kind l.map l.targets ++ readSpans l.kind l.map l.targets, g.contains a = true) ↔
      l.reads a = true ∨ l.writes a = true := by
  simp only [Latch.reads, Latch.writes, List.any_eq_true, List.mem_append, or_and_right, exists_or]
  exact or_comm

/-- With an unmapped byte among those that cannot be skipped, the data pass reports an unmapped byte of the access set. -/
theorem busFault_some {p : Platform} {l : Latch} {a : Nat} (ctr : Nat)
    (ha : ∃ g ∈ writeSpans l.kind l.map l.targets ++ mustReadSpans l.kind l.map l.targets, g.contains a = true)
    (hmap : mapped p a = false) :
    ∃ b, busFault p ctr l = some b ∧ mapped p b = false ∧ (l.reads b = true ∨ l.writes b = true) := by
  have hmust : unmappedIn p (writeSpans l.kind l.map l.targets ++ mustReadSpans l.kind l.map l.targets) ≠ [] :=
    List.ne_nil_of_mem ((mem_unmappedIn p _ a).mpr ⟨ha, hmap⟩)
  have haccess : l.reads a = true ∨ l.writes a = true := by
    obtain ⟨g, hg, hga⟩ := ha
    rcases List.mem_append.mp hg with hw | hr
    · exact .inr (List.any_eq_true.mpr ⟨g, hw, hga⟩)
    · exact .inl (List.any_eq_true.mpr (readSpans_of_mustReadSpans ⟨g, hr, hga⟩))
  have hall : unmappedIn p (writeSpans l.kind l.map l.targets ++ readSpans l.kind l.map l.targets) ≠ [] :=
    List.ne_nil_of_mem ((mem_unmappedIn p _ a).mpr ⟨(accessSet_iff l a).mpr haccess, hmap⟩)
  have hfault : busFault p ctr l =
      some (pickAddress ctr (unmappedIn p (writeSpans l.kind l.map l.targets ++ readSpans l.kind l.map l.targets))) := by
    unfold busFault
    dsimp only
    split
    · next hnil => exact absurd hnil hall
    · exact if_neg fun hskip => hmust hskip.1
  obtain ⟨hset, hun⟩ := (mem_unmappedIn p _ _).mp (pickAddress_mem ctr hall)
  exact ⟨_, hfault, hun, (accessSet_iff l _).mp hset⟩

/-- A BUSY map command whose data pass meets an unmapped byte ends in BUS_ERROR. -/
theorem exec_busy_busError {i : Instr} (hm : i.isMap = true) {s : State} {l : Latch} {b : Nat} (hs : s.seq = .busy)
    (hl : s.latched = some l) (hb : busFault s.platform s.freeCtr l = some b) : exec i s = .next (s.busError b) := by
  rw [exec_busy_map i hm s hs]
  rcases endPass_cases (cellsOf i) hl with ⟨a, ha, he⟩ | ⟨hn, -⟩ | ⟨hn, -⟩
  · rw [he, Option.some.inj (ha.symm.trans hb)]
  · cases hn.symm.trans hb
  · cases hn.symm.trans hb

/-- Settles O36: the free choice to skip reads is not open, so the pass ends in BUS_ERROR, which scrambles the write set
only. -/
theorem unmappedAccessIsBusError : Obligations.UnmappedAccessIsBusError := by
  intro s l a hc hs hl hm ha hmap
  obtain ⟨b, hb, hun, haccess⟩ := busFault_some s.freeCtr ha hmap
  refine ⟨s.busError b, exec_busy_busError hm hs hl hb, rfl, rfl, hc.done_false (by simp [hs]), rfl, rfl, rfl,
    sameDescriptor_busError s b, rfl, ⟨b, rfl, hun, haccess⟩, fun x hx => scrambled_read_other s x fun l' hl' => ?_⟩
  rwa [← Option.some.inj (hl.symm.trans hl')]

end Sys2Proof.Machine

end
section

/-! ### The sticky FAULT (rule R190) -/

namespace Sys2Proof.Machine

/-- `t` shows the same fault as `s`: its record, the other status registers and every register the host can write; DONE may only
be cleared. -/
structure SameFault (s t : State) : Prop where
  seq : t.seq = s.seq
  fcode : t.fcode = s.fcode
  finfo : t.finfo = s.finfo
  kind : t.kind = s.kind
  used : t.used = s.used
  vctx : t.vctx = s.vctx
  gfr : t.gfr = s.gfr
  done : s.done = false → t.done = false
  descriptor : SameDescriptor s t

theorem SameFault.trans {s t u : State} (h : SameFault s t) (h' : SameFault t u) : SameFault s u where
  seq := h'.seq.trans h.seq
  fcode := h'.fcode.trans h.fcode
  finfo := h'.finfo.trans h.finfo
  kind := h'.kind.trans h.kind
  used := h'.used.trans h.used
  vctx := h'.vctx.trans h.vctx
  gfr := h'.gfr.trans h.gfr
  done := h'.done ∘ h.done
  descriptor := h.descriptor.trans h'.descriptor

/-- States that agree in what `Consistent` speaks of and in the descriptor show the same fault. -/
theorem SameEngine.sameFault {s t : State} (h : SameEngine s t) (hd : SameDescriptor s t) : SameFault s t :=
  ⟨h.seq, h.fcode, h.finfo, h.kind, h.used, h.vctx, h.gfr, fun hdone => h.done.trans hdone, hd⟩

theorem SameFault.refl (s : State) : SameFault s s :=
  ⟨rfl, rfl, rfl, rfl, rfl, rfl, rfl, id, .refl s⟩

/-- While DONE is 0 they show the same STATUS. -/
theorem SameFault.statusWord_eq {s t : State} (h : SameFault s t) (hd : s.done = false) : t.statusWord = s.statusWord := by
  simp only [State.statusWord, h.seq, h.done hd, hd, h.vctx, h.kind, h.used, h.fcode]

theorem sameFault_ack (s : State) : SameFault s s.ack :=
  ⟨rfl, rfl, rfl, rfl, rfl, rfl, rfl, fun _ => rfl, sameDescriptor_ack s⟩

theorem sameFault_storeByte (s : State) (a : Nat) (b : Byte) : SameFault s (s.storeByte a b) :=
  ⟨rfl, rfl, rfl, rfl, rfl, rfl, rfl, id, sameDescriptor_storeByte s a b⟩

/-- CTRL without bit 0 can only acknowledge. -/
theorem writeCtrl_cases {v : Word} (h0 : v.getLsbD 0 = false) (s : State) : s.writeCtrl v = s.ack ∨ s.writeCtrl v = s := by
  cases h1 : v.getLsbD 1
  · exact .inr (writeCtrl_nothing h0 h1)
  · exact .inl (writeCtrl_ack h0 h1)

/-- With DONE = 0 an acknowledge changes nothing. -/
theorem ack_of_not_done {s : State} (h : s.done = false) : s.ack = s := by rw [State.ack, ← h]

/-- CTRL has one number (rule R12). -/
theorem Reg.number_of_ctrl {r : Nat} (h : Reg.ofNumber r = .ctrl) : r = 1 := by
  rcases number_cases r with hr | hr | hr
  · have hfirst : ∀ q < 14, Reg.ofNumber q = .ctrl → q = 1 := by decide
    exact hfirst r hr h
  · obtain ⟨c, g, -, hg, -⟩ := Reg.ofNumber_column hr
    cases hg.symm.trans h
  · cases (Reg.ofNumber_reserved hr).symm.trans h

/-- In FAULT a host write is ignored, but for the reset and the acknowledge of CTRL. -/
theorem hostWrite_of_fault {r : Nat} {v : Word} {s t : State} (hs : s.seq = .fault) (he : hostWrite r v s = .next t) :
    (SameFault s t ∧ t.mem = s.mem) ∨ (r = 1 ∧ v.getLsbD 0 = true) := by
  by_cases hctrl : Reg.ofNumber r = .ctrl
  · cases (hostWrite_ctrl hctrl v s).symm.trans he
    cases h0 : v.getLsbD 0 with
    | true => exact .inr ⟨Reg.number_of_ctrl hctrl, rfl⟩
    | false =>
      rcases writeCtrl_cases h0 s with h | h <;> rw [h]
      · exact .inl ⟨sameFault_ack s, rfl⟩
      · exact .inl ⟨SameFault.refl s, rfl⟩
  · have hignored : hostWrite r v s = .next s := by
      by_cases hreg : Reg.ofNumber r = .cmd ∨ (Reg.ofNumber r).isRw = true
      · exact hostWrite_fault hreg v hs
      · obtain ⟨hcmd, hrw⟩ := not_or.mp hreg
        exact hostWrite_ignored hctrl hcmd (Bool.eq_false_iff.mpr hrw) v s
    cases hignored.symm.trans he
    exact .inl ⟨SameFault.refl s, rfl⟩

/-- In FAULT the host's actions but a reset leave the fault, and all but a store leave memory. -/
theorem hostStep_of_fault {x : HostAction} {s t : State} (hs : s.seq = .fault) (he : hostStep x s = .next t) :
    (SameFault s t ∧ ((∀ a b, x ≠ .store a b) → t.mem = s.mem)) ∨ (∃ v, x = .write 1 v ∧ v.getLsbD 0 = true) ∨
      x = .hardReset := by
  cases x with
  | write r v =>
    rcases hostWrite_of_fault hs he with ⟨hsame, hmem⟩ | ⟨rfl, h0⟩
    · exact .inl ⟨hsame, fun _ => hmem⟩
    · exact .inr (.inl ⟨v, rfl, h0⟩)
  | read r =>
    cases he
    exact .inl ⟨(sameEngine_hostRead r s).sameFault (sameDescriptor_hostRead r s), fun _ => rfl⟩
  | store a b => exact .inl ⟨hostStore_next he ▸ sameFault_storeByte s _ _, fun hno => absurd rfl (hno a b)⟩
  | load a =>
    cases hostLoad_next he
    exact .inl ⟨(sameEngine_loadByte s _).sameFault (sameDescriptor_loadByte s _), fun _ => s.loadByte_mem _⟩
  | wait =>
    cases he
    exact .inl ⟨(sameEngine_hostRead 2 s).sameFault (sameDescriptor_hostRead 2 s), fun _ => rfl⟩
  | hardReset => exact .inr (.inr rfl)

/-- A step from FAULT leaves the fault, and memory unless an agent stores to it, or is a reset. -/
theorem step_of_fault {s t : State} (hs : s.seq = .fault) (he : step s = .next t) :
    (SameFault s t ∧ ((∀ a b rest, s.inputs ≠ .store a b :: rest) → t.mem = s.mem)) ∨
    (∃ v more, s.held = (1, v) :: more ∧ v.getLsbD 0 = true) ∨
    (s.held = [] ∧ ∃ rest,
      (∃ v, s.inputs = .write 1 v :: rest ∧ v.getLsbD 0 = true) ∨ s.inputs = .hardReset :: rest) := by
  have hbusy : s.seq ≠ .busy := by simp [hs]
  rcases step_cases s with ⟨hb, -⟩ | ⟨-, r, v, more, hh, h⟩ | ⟨x, rest, hi, hb, h⟩ | ⟨-, -, -, h⟩
  · exact absurd hb hbusy
  · rcases hostWrite_of_fault (s := s.withHeld more) hs (h.symm.trans he) with ⟨hsame, hmem⟩ | ⟨rfl, h0⟩
    · exact .inl ⟨((sameEngine_withHeld s more).sameFault (sameDescriptor_withHeld s more)).trans hsame, fun _ => hmem⟩
    · exact .inr (.inl ⟨v, more, hh, h0⟩)
  · have hheld : s.held = [] := hb.resolve_left hbusy
    rcases hostStep_of_fault (s := s.withInputs rest) hs (h.symm.trans he) with ⟨hsame, hmem⟩ | ⟨v, rfl, h0⟩ | rfl
    · exact .inl ⟨((sameEngine_withInputs s rest).sameFault (sameDescriptor_withInputs s rest)).trans hsame,
        fun hno => hmem fun a b hx => hno a b rest (hx ▸ hi)⟩
    · exact .inr (.inr ⟨hheld, rest, .inl ⟨v, hi, h0⟩⟩)
    · exact .inr (.inr ⟨hheld, rest, .inr hi⟩)
  · cases h.symm.trans he
    exact .inl ⟨SameFault.refl s, fun _ => rfl⟩

/-- Settles O52: the step, the ignored writes, ACK, the commands, the reads and the two resets. -/
theorem faultIsSticky : Obligations.FaultIsSticky := by
  refine ⟨fun s t hs he => ?_, fun s r v hs hr => ?_, fun s v hc hs h0 => ?_, fun s i => exec_fault i,
    fun s r rest hs hh hi => ?_, fun s v _ h0 => ?_, fun s _ => ⟨s.hardReset, rfl, rfl, rfl, rfl⟩⟩
  · refine (step_of_fault hs he).imp_left fun ⟨h, hmem⟩ => ?_
    have ht : t.seq = .fault := h.seq.trans hs
    have hstatus : Consistent s → t.statusWord = s.statusWord := fun hc =>
      h.statusWord_eq (hc.done_false (by simp [hs]))
    exact ⟨ht, h.fcode, h.finfo, h.kind, h.used, h.vctx, h.gfr, h.descriptor, fun ⟨hidle, _⟩ => by simp [ht] at hidle,
      hmem, hstatus⟩
  · have hreg : Reg.ofNumber r = .cmd ∨ (Reg.ofNumber r).isRw = true := hr.imp_left fun h => by subst h; rfl
    exact hostWrite_fault hreg v hs
  · have hack : s.ack = s := ack_of_not_done (hc.done_false (by simp [hs]))
    rw [hostWrite_ctrl rfl]
    rcases writeCtrl_cases h0 s with h | h <;> simp only [h, hack]
  · rw [step_input (by simp [hs]) hh hi, ← s.readReg_withInputs rest]
    rfl
  · exact ⟨s.softReset, by rw [hostWrite_ctrl rfl, writeCtrl_reset h0], rfl, rfl, rfl⟩

end Sys2Proof.Machine

end

/-! ## Proof of the reset and hazards family: an accepted command ends -/

section

/-! ### The end of an accepted command (rule R221) -/

namespace Sys2Proof.Machine

/-- BUSY comes with a latched command (rule R38). -/
theorem Consistent.exists_latched {s : State} (hc : Consistent s) (hs : s.seq = .busy) : ∃ l, s.latched = some l :=
  Option.isSome_iff_exists.mp (hc.latchedIffBusy.mp hs)

/-- Settles O54: while the host waits, the step is the engine's move, which ends the latched command in one of its two ways. -/
theorem acceptedCommandEnds : Obligations.AcceptedCommandEnds := by
  intro s hc hs hi
  obtain ⟨l, hl⟩ := hc.exists_latched hs
  have hmove : step s = engineStep s := step_engine hs hi
  rcases engineStep_ends hs hl with ⟨a, hend⟩ | ⟨g, m, hend⟩
  · exact ⟨s.busError a, hmove.trans hend, .inr ⟨s.busError_seq a, s.busError_fcode a⟩⟩
  · exact ⟨s.finish g m, hmove.trans hend, .inl ⟨s.finish_seq g m, s.finish_done g m⟩⟩

end Sys2Proof.Machine

end

/-! ## Proof of the published words (95_test_vectors.md section 2.7) -/

section

namespace Sys2Proof

/-- Decoder and encoder are inverse: a word decodes to a command exactly when it is that well-formed command's word. -/
theorem decode_eq_ok_iff {w : Word} {i : Instr} : decode w = .ok i ↔ encode i = w ∧ i.wellFormed = true := by
  refine ⟨encodeInvertsDecode w i, fun ⟨hw, hi⟩ => ?_⟩
  rw [← hw]
  exact decodeInvertsEncode i hi

/-- Settles O3: each of the six words is the word of its command, and 0x2E15 has the reserved bit 11 set. -/
theorem publishedWordsDecode : Obligations.PublishedWordsDecode := by
  have hbit11 : bitField 0x2E15 11 1 ≠ 0 := by decide
  refine ⟨?gen, ?genpq, ?rec, ?recpqr, ?gfexp2, ?gfmul, decode_of_reservedBits (.inl hbit11)⟩
  all_goals exact decode_eq_ok_iff.mpr (by decide)

end Sys2Proof

end
